-- ==== Sys2Proof/Word.lean ====
section
/-! DEFINITION. The word types of KSW (00_scope R10, R11; 10_state R20): bytes of the queue and of the output, 32-bit
half-words of the state, 64-bit command words, and the state array `W` of fifty half-words. -/

namespace Sys2Proof

/-- A byte of the queue, of the output or of a padding field. -/
abbrev Byte := BitVec 8

/-- A 32-bit half-word of the state, and the width of the register read port. -/
abbrev Word := BitVec 32

/-- One command word (30_encoding R53). -/
abbrev Command := BitVec 64

/-- The state array: 50 words of 32 bits (10_state R21). -/
abbrev Words := Vector Word 50

end Sys2Proof
end

