-- ==== Sys2Proof/Syntax.lean ====
section
/-! DEFINITION. The commands of KSW: one constructor per row of the opcode map (30_encoding R67, spec/opcode_table.json).
Each operand has exactly the width of its field (30_encoding R58). -/

namespace Sys2Proof

/-- The six commands, as the decoder hands them to the machine. -/
inductive Instr where
  /-- ABSORB: the byte `DATA` (41_absorb R81). -/
  | absorb (b : Byte)
  /-- SQUEEZE: `LEN` bytes, padded with `PAD` (42_squeeze R89). -/
  | squeeze (len : BitVec 32)
  /-- SQUEEZE.PAD: `LEN` bytes, padded with `PADV` (42_squeeze R99). -/
  | squeezePad (padv : Byte) (len : BitVec 32)
  /-- SQUEEZE.DEF: `DEFLEN` bytes, padded with `PAD` (42_squeeze R98). -/
  | squeezeDef
  /-- SQUEEZE.DEF.PAD: `DEFLEN` bytes, padded with `PADV` (42_squeeze R98, R99). -/
  | squeezeDefPad (padv : Byte)
  /-- RESET (43_reset R105). -/
  | reset
deriving DecidableEq, Repr

end Sys2Proof
end

