-- ==== Sys2Proof/WellFormed.lean ====
section
/-! DEFINITION. Well-formedness of operands (30_encoding R58, R65, R66). An operand of `Instr` has exactly the width of its
field, so no ill-formed command can be written down there; the checks below are those on the numbers and characters of an
assembly line, which the assembler refuses when they do not fit (R65). -/

namespace Sys2Proof

/-- `<byte>` must be 0 to 255 (30_encoding R65). -/
def isByte (v : Nat) : Bool := v < 2 ^ 8

/-- `<len>` must be 0 to 2^32 - 1 (30_encoding R65). -/
def isLen (v : Nat) : Bool := v < 2 ^ 32

/-- Only characters 0x20 to 0x7E are allowed in `absorb.str` (30_encoding R66). -/
def isText (c : Char) : Bool := 0x20 ≤ c.toNat && c.toNat ≤ 0x7E

/-- The operands of a command fit their fields. Each is typed at its field's width, so this holds of every command: the
check restates it number by number, as an assembler does. -/
def Instr.wf : Instr → Bool
  | .absorb b => isByte b.toNat
  | .squeeze len => isLen len.toNat
  | .squeezePad padv len => isByte padv.toNat && isLen len.toNat
  | .squeezeDef => true
  | .squeezeDefPad padv => isByte padv.toNat
  | .reset => true

end Sys2Proof
end

