-- ==== Sys2Proof/Decode.lean ====
section
/-! DEFINITION. The decoder, total on all 2^64 command words (30_encoding R61), the encoder from the same tables (R55 to R57,
R65), the opcode map as data (R67), and the byte transport of a command word (20_memory R42). -/

namespace Sys2Proof

/-- The two error causes (60_exceptions R109). -/
inductive Cause where
  /-- `ILLEGAL_OPCODE`, code 1: the opcode is 0x00 or 0x04 to 0xFF (30_encoding R62). -/
  | illegalOpcode
  /-- `RESERVED_FIELD`, code 2: a legal opcode with a nonzero reserved field (30_encoding R63). -/
  | reservedField
deriving DecidableEq, Repr

/-- What the decoder answers: a command, or a rejection with its cause (30_encoding R61). -/
inductive Decoded where
  | command (i : Instr)
  | reject (k : Cause)
deriving DecidableEq, Repr

/-- `v[hi:lo]` of 00_scope R11, given by its lowest bit and its width. -/
def field (lo width : Nat) (cw : Command) : BitVec width := cw.extractLsb' lo width

/-- The opcode field `OPC = cw[63:56]` (30_encoding R53). -/
def opcode (cw : Command) : BitVec 8 := field 56 8 cw

/-- Format S after its opcode: the reserved fields are checked, then `DEF` and `POV` choose the form
(30_encoding R56, R61). -/
def decodeSqueeze (cw : Command) : Decoded :=
  let defBit := field 55 1 cw
  let pov := field 54 1 cw
  let padv := field 40 8 cw
  let len := field 0 32 cw
  if field 48 6 cw ≠ 0#6 ∨ field 32 8 cw ≠ 0#8 then .reject .reservedField
  else if defBit = 1#1 ∧ len ≠ 0#32 then .reject .reservedField
  else if pov = 0#1 ∧ padv ≠ 0#8 then .reject .reservedField
  else if defBit = 1#1 then
    if pov = 1#1 then .command (.squeezeDefPad padv) else .command .squeezeDef
  else
    if pov = 1#1 then .command (.squeezePad padv len) else .command (.squeeze len)

/-- `decode` of 30_encoding R61. It reads the word alone; the lengths and padding bytes that depend on the configuration
are resolved by the operand forms (Machine/Operands.lean). -/
def decode (cw : Command) : Decoded :=
  if opcode cw = 0x01#8 then
    if field 8 48 cw ≠ 0#48 then .reject .reservedField else .command (.absorb (field 0 8 cw))
  else if opcode cw = 0x02#8 then decodeSqueeze cw
  else if opcode cw = 0x03#8 then
    if field 0 56 cw ≠ 0#56 then .reject .reservedField else .command .reset
  else .reject .illegalOpcode

/-- A field's value put at its place in a word. -/
def place (lo : Nat) {width : Nat} (v : BitVec width) : Command := v.zeroExtend 64 <<< lo

/-- The word of a command: its fields ORed together, each at its place (30_encoding R55 to R57, R65). -/
def encode : Instr → Command
  | .absorb b => place 56 0x01#8 ||| place 0 b
  | .squeeze len => place 56 0x02#8 ||| place 0 len
  | .squeezePad padv len => place 56 0x02#8 ||| place 54 1#1 ||| place 40 padv ||| place 0 len
  | .squeezeDef => place 56 0x02#8 ||| place 55 1#1
  | .squeezeDefPad padv => place 56 0x02#8 ||| place 55 1#1 ||| place 54 1#1 ||| place 40 padv
  | .reset => place 56 0x03#8

/-- One row of the opcode map: a word matches it when `(cw AND mask) = match` (30_encoding R67). -/
structure Row where
  mnemonic : String
  format : String
  pattern : Command
  mask : Command
deriving DecidableEq, Repr

/-- A word matches a row (30_encoding R67). -/
def Row.hits (r : Row) (cw : Command) : Bool := (cw &&& r.mask) == r.pattern

/-- The row of a command (30_encoding R67). -/
def Instr.row : Instr → Row
  | .absorb _ => ⟨"ABSORB", "A", 0x0100000000000000#64, 0xFFFFFFFFFFFFFF00#64⟩
  | .squeeze _ => ⟨"SQUEEZE", "S", 0x0200000000000000#64, 0xFFFFFFFF00000000#64⟩
  | .squeezePad _ _ => ⟨"SQUEEZE.PAD", "S", 0x0240000000000000#64, 0xFFFF00FF00000000#64⟩
  | .squeezeDef => ⟨"SQUEEZE.DEF", "S", 0x0280000000000000#64, 0xFFFFFFFFFFFFFFFF#64⟩
  | .squeezeDefPad _ => ⟨"SQUEEZE.DEF.PAD", "S", 0x02C0000000000000#64, 0xFFFF00FFFFFFFFFF#64⟩
  | .reset => ⟨"RESET", "R", 0x0300000000000000#64, 0xFFFFFFFFFFFFFFFF#64⟩

/-- The complete opcode map, in the spec's order (30_encoding R67). -/
def opcodeMap : List Row :=
  [Instr.row (.absorb 0), Instr.row (.squeeze 0), Instr.row (.squeezePad 0 0),
   Instr.row .squeezeDef, Instr.row (.squeezeDefPad 0), Instr.row .reset]

/-- A command word as transport bytes: bits [7:0] first, bits [63:56] last (20_memory R42). -/
def transportBytes (cw : Command) : List Byte :=
  [field 0 8 cw, field 8 8 cw, field 16 8 cw, field 24 8 cw,
   field 32 8 cw, field 40 8 cw, field 48 8 cw, field 56 8 cw]

/-- The command words a byte transport has delivered whole (20_memory R42), and the bytes of a word still incomplete.
DESIGN CHOICE, unsafe (log entry 18): that fewer than eight trailing bytes form no word and are left over is the model's. -/
def commandsOfBytes : List Byte → List Command × List Byte
  | b0 :: b1 :: b2 :: b3 :: b4 :: b5 :: b6 :: b7 :: rest =>
    let r := commandsOfBytes rest
    ((b7 ++ b6 ++ b5 ++ b4 ++ b3 ++ b2 ++ b1 ++ b0 : Command) :: r.1, r.2)
  | bs => ([], bs)

/-- The host's question of the opcode table: a row's word in the table's own numbering. Every command is one 64-bit unit
whose bit 0 is the table's bit 0, so the bits above `nbits` being 0 the word is the number itself (20_memory R42).
DESIGN CHOICE, safe (log entry 14). -/
def decodeTableWord (nbits w : Nat) : Option Instr :=
  match decode (BitVec.ofNat 64 (w % 2 ^ nbits)) with
  | .command i => some i
  | .reject _ => none

end Sys2Proof
end

