-- ==== Sys2Proof/Config.lean ====
section
/-! DEFINITION. What an instance of KSW is constructed with (00_scope R6, R7, R9; 70_reset R126): the three configuration
values and the permutation. The permutation the spec leaves open stands here as an opaque constant: nothing in Lean can
evaluate it or prove a value of it. -/

namespace Sys2Proof

/-- The configuration registers `CAP`, `PAD` and `RND` (10_state R26), with their widths (00_scope R7). -/
structure Config where
  /-- `CAPACITY`, 16 bits. -/
  cap : BitVec 16
  /-- `PADDING`, 8 bits. -/
  pad : Byte
  /-- `ROUNDS`, 8 bits. -/
  rnd : BitVec 8
deriving DecidableEq, Repr

/-- Which permutation an instance was constructed with (70_reset R126, fourth argument of CONSTRUCT). State is plain data, so
it holds this name and not the function.
DESIGN CHOICE, safe (log entry 1): the names are the spec's own parameter and its two test instances. -/
inductive Provider where
  /-- The external collaborator, of which nothing is known but that it is a total function (00_scope R9). -/
  | external
  /-- `Perm_I`, the identity (40_packing R80). -/
  | identity
  /-- `Perm_K`, the standard permutation (40_packing R79). -/
  | keccak
deriving DecidableEq, Repr

/-- `Perm : rounds -> words -> words`, the model parameter of 00_scope R9 (92_eei_decisions D14).
A free value (log entry 1): every theorem about it holds of every total function of this type. -/
opaque Config.perm : BitVec 8 → Words → Words

/-- What `Perm_K` does for a round count other than 24: 40_packing R79 states 24 only (91_not_in_source N11).
A free value (log entry 9). -/
opaque Config.permKOther : BitVec 8 → Words → Words

end Sys2Proof
end

