-- ==== Sys2Proof/Machine/Params.lean ====
section
/-! DEFINITION. What is derived from the configuration (00_scope R8), which configurations are legal (R7, 70_reset R127), and
the configuration of State.reset. -/

namespace Sys2Proof.Machine

/-- `STATE_BYTES = 200` (00_scope R8). -/
def stateBytes : Nat := 200

/-- `RATE = 200 - CAPACITY/4` (00_scope R8). -/
def rate (cfg : Config) : Nat := stateBytes - cfg.cap.toNat / 4

/-- `DEFLEN = CAPACITY/8` (00_scope R8). -/
def defLen (cfg : Config) : Nat := cfg.cap.toNat / 8

/-- `legal(CAPACITY, PADDING, ROUNDS)` of 70_reset R127, over the integers a host may offer (93 U1 to U3). -/
def legal (capacity padding rounds : Int) : Bool :=
  (capacity % 32 == 0 && 0 ≤ capacity && capacity ≤ 768) &&
  (0 ≤ padding && padding ≤ 255) && (0 ≤ rounds && rounds ≤ 255)

/-- The configuration registers hold a legal configuration (00_scope R7): `PAD` and `RND` are legal at every value of
their eight bits. -/
def legalConfig (cfg : Config) : Bool :=
  legal (cfg.cap.toNat : Int) (cfg.pad.toNat : Int) (cfg.rnd.toNat : Int)

/-- The configuration State.reset is constructed with. Every instance has its own; the spec fixes none.
DESIGN CHOICE, unsafe (log entry 2): the one its worked examples use (95_test_vectors V1, V14, V30, V31). -/
def resetConfig : Config := ⟨256#16, 0x06#8, 24#8⟩

end Sys2Proof.Machine
end

