-- ==== Sys2Proof/Machine/State.lean ====
section
/-! DEFINITION. The state of a KSW instance (10_state R20), as plain data, with what the spec has a model or the host hold
beside it, and its value after construction (70_reset R126). KSW has no addressable memory (20_memory R37). -/

namespace Sys2Proof.Machine

/-- The faults a model records (60_exceptions R113). -/
inductive Fault where
  /-- Command `n` was rejected with this cause (00_scope R13, 60_exceptions R109). Raised by `rejectCommand`, which puts it
  into the state's `faults` and goes on (R112); no step ends in it. Safe: nothing of the hardware is cut off. -/
  | commandError (n : Nat) (cause : Cause)
deriving DecidableEq, Repr

/-- What is refused by name. -/
inductive Refusal where
  /-- Raised by an arm of `exec` whose instruction has no meaning yet. Safe: nothing is claimed of it. No arm is left. -/
  | notModelled (mnemonic : String)
  /-- Raised by `construct` for a configuration outside the legal set: no instance exists (70_reset R127).
  Safe: no claim can be stated about such an instance. -/
  | illegalConfiguration
deriving DecidableEq, Repr

/-- A KSW instance, with its host's streams. -/
structure State where
  /-- `W`, the fifty half-words (10_state R21). -/
  w : Words
  /-- `Q`, the queue of `RATE` bytes (10_state R23). -/
  q : List Byte
  /-- `C`, the cursor (10_state R24). -/
  c : Nat
  /-- `CAP`, `PAD`, `RND` (10_state R26). -/
  cfg : Config
  /-- The permutation supplied at construction, by name (70_reset R126; log entry 1). -/
  provider : Provider
  /-- `STATUS` (10_state R28). -/
  status : BitVec 32
  /-- `ERRCMD` (10_state R29). -/
  errcmd : BitVec 64
  /-- `n`, the index of the next command (10_state R27). -/
  n : Nat
  /-- The command words the host has sent and the port has not accepted yet, next first (10_state R33; log entry 4). -/
  cmds : List Command
  /-- `OUT`, one byte sequence per SQUEEZE, oldest first (10_state R34; log entry 6). -/
  out : List (List Byte)
  /-- The faults recorded, oldest first, never cleared (60_exceptions R113; log entry 5). -/
  faults : List Fault
  /-- The model's own count of `Perm` calls (70_reset R138; log entry 7). -/
  permCalls : Nat
deriving DecidableEq, Repr

/-- The state after CONSTRUCT with a configuration and a permutation: `fresh(cfg)` (70_reset R126, R142; 10_state R36). -/
def State.fresh (cfg : Config) (p : Provider) : State where
  w := Vector.replicate 50 0#32
  q := List.replicate (rate cfg) 0#8
  c := 0
  cfg := cfg
  provider := p
  status := 0#32
  errcmd := 0#64
  n := 0
  cmds := []
  out := []
  faults := []
  permCalls := 0

/-- The machine right after power-on reset, which for KSW is construction (70_reset R126), with the configuration and the
permutation that log entries 1 and 2 name. -/
def State.reset : State := State.fresh resetConfig .external

end Sys2Proof.Machine
end

