-- ==== Sys2Proof/Machine/Flags.lean ====
section
/-! DEFINITION. The fields of `STATUS`, KSW's only flag register (10_state R28), and what a rejection does to it and to
`ERRCMD` (60_exceptions R109, R111). No accepted command writes a flag. -/

namespace Sys2Proof.Machine

/-- `STATUS.ERR`, bit 0 (10_state R28). -/
def statusErr (st : BitVec 32) : Bool := st.getLsbD 0

/-- `STATUS.CAUSE`, bits [7:4] (10_state R28). -/
def statusCause (st : BitVec 32) : BitVec 4 := st.extractLsb' 4 4

/-- The cause codes (60_exceptions R109). -/
def causeCode : Cause → BitVec 4
  | .illegalOpcode => 1#4
  | .reservedField => 2#4

/-- `STATUS.CAUSE <- k`, the other bits kept. -/
def setCause (st : BitVec 32) (k : Cause) : BitVec 32 :=
  (st &&& 0xFFFFFF0F#32) ||| ((causeCode k).zeroExtend 32 <<< 4)

/-- `STATUS.ERR <- 1`, the other bits kept. -/
def setErr (st : BitVec 32) : BitVec 32 := st ||| 1#32

/-- `STATUS` after a rejection with cause `k` (60_exceptions R111). -/
def statusReject (k : Cause) (st : BitVec 32) : BitVec 32 :=
  setErr (if statusErr st then st else setCause st k)

/-- `ERRCMD` after a rejection of `cw`, given `STATUS` before it (60_exceptions R111). -/
def errcmdReject (cw : Command) (st : BitVec 32) (old : BitVec 64) : BitVec 64 :=
  if statusErr st then old else cw

end Sys2Proof.Machine
end

