-- ==== Sys2Proof/Machine/Packing.lean ====
section
/-! DEFINITION. The packing engine (40_packing R69 to R75): PACK and UNPACK between a byte block and the fifty half-words,
little-endian lanes with the high half at the even index (10_state R21, 20_memory R39, R40). -/

namespace Sys2Proof.Machine

/-- The word of `W` that byte `i` of a block reaches (20_memory R40). -/
def widx (i : Nat) : Nat := 2 * (i / 8) + (if i % 8 < 4 then 1 else 0)

/-- The bit offset at which byte `i` of a block stands in its word (20_memory R40). -/
def bpos (i : Nat) : Nat := 8 * (i % 4)

/-- `le32(b0, b1, b2, b3) = {b3, b2, b1, b0}` (00_scope R12). -/
def le32 (b0 b1 b2 b3 : Byte) : Word := b3 ++ b2 ++ b1 ++ b0

/-- `byte_k(v) = v[8k+7:8k]` (00_scope R12). -/
def byteOf (k : Nat) (v : Word) : Byte := v.extractLsb' (8 * k) 8

/-- `W[i]` (00_scope R12); indexes stay below 50 in every use. -/
def wordAt (w : Words) (i : Nat) : Word := w[i]?.getD 0#32

/-- Byte `i` of a block; indexes stay below its length in every use. -/
def byteAt (block : List Byte) (i : Nat) : Byte := block.getD i 0#8

/-- `W[i] <- W[i] XOR v`. -/
def xorWord (w : Words) (i : Nat) (v : Word) : Words := w.setIfInBounds i (wordAt w i ^^^ v)

/-- One pass of PACK's loop, for the lane at byte offset `i = 8k`: word `o = i/4` takes bytes `i+4..i+7` and word `o+1`
bytes `i..i+3` (40_packing R69). -/
def packLane (block : List Byte) (w : Words) (k : Nat) : Words :=
  let i := 8 * k
  let o := i / 4
  let high := le32 (byteAt block (i + 4)) (byteAt block (i + 5)) (byteAt block (i + 6)) (byteAt block (i + 7))
  let low := le32 (byteAt block i) (byteAt block (i + 1)) (byteAt block (i + 2)) (byteAt block (i + 3))
  xorWord (xorWord w o high) (o + 1) low

/-- `PACK(block, w)` (40_packing R69): `i = 0, 8, 16, ..., n-8`. KSW calls it with `n = RATE` only (R71). -/
def pack (block : List Byte) (w : Words) : Words :=
  (List.range (block.length / 8)).foldl (packLane block) w

/-- The eight bytes of lane `k`: the low half first, each half little-endian (40_packing R72). -/
def laneBytes (w : Words) (k : Nat) : List Byte :=
  let low := wordAt w (2 * k + 1)
  let high := wordAt w (2 * k)
  [byteOf 0 low, byteOf 1 low, byteOf 2 low, byteOf 3 low,
   byteOf 0 high, byteOf 1 high, byteOf 2 high, byteOf 3 high]

/-- `IMAGE(w)`, 200 bytes (40_packing R72). -/
def image (w : Words) : List Byte := (List.range 25).flatMap (laneBytes w)

/-- `UNPACK(w, n) = IMAGE(w)[0..n)` (40_packing R72, R73). -/
def unpack (w : Words) (n : Nat) : List Byte := (image w).take n

end Sys2Proof.Machine
end

