-- ==== Sys2Proof/Machine/Perm.lean ====
section
/-! DEFINITION. The permutation port (40_packing R76 to R80): the spec's parameter `Perm`, opaque, and the two test instances
it names, `Perm_I` and `Perm_K`. -/

namespace Sys2Proof.Machine

/-- `Perm_I(r, w) = w` for every `r` (40_packing R80). -/
def permI (_ : BitVec 8) (w : Words) : Words := w

/-- Lane `k` of the state, `L_k = {W[2k], W[2k+1]}` (10_state R21). -/
def laneOf (w : Words) (k : Nat) : BitVec 64 := wordAt w (2 * k) ++ wordAt w (2 * k + 1)

/-- Lanes back into words: `w[2k] = L_k[63:32]`, `w[2k+1] = L_k[31:0]` (40_packing R79, step 3). -/
def wordsOf (lanes : List (BitVec 64)) : Words :=
  Vector.ofFn fun j : Fin 50 =>
    let l := lanes.getD (j / 2) 0#64
    if j.val % 2 = 0 then l.extractLsb' 32 32 else l.extractLsb' 0 32

/-- The lane at Keccak coordinates `x`, `y`, taken modulo 5: lane `k` is at `x = k mod 5`, `y = k div 5`
(40_packing R79, step 2). -/
def laneAt (a : List (BitVec 64)) (x y : Nat) : BitVec 64 := a.getD (x % 5 + 5 * (y % 5)) 0#64

/-- Lanes from a function of their coordinates. -/
def lanesOf (f : Nat → Nat → BitVec 64) : List (BitVec 64) := (List.range 25).map fun k => f (k % 5) (k / 5)

/-- The step theta of Keccak-f. PRESUMED, unsafe (log entry 9): FIPS 202, not in the source. -/
def keccakTheta (a : List (BitVec 64)) : List (BitVec 64) :=
  let c := (List.range 5).map fun x =>
    laneAt a x 0 ^^^ laneAt a x 1 ^^^ laneAt a x 2 ^^^ laneAt a x 3 ^^^ laneAt a x 4
  lanesOf fun x y => laneAt a x y ^^^ c.getD ((x + 4) % 5) 0#64 ^^^ (c.getD ((x + 1) % 5) 0#64).rotateLeft 1

/-- The rotation offsets of rho, for lane `k`. PRESUMED, unsafe (log entry 9): FIPS 202. -/
def keccakOffsets : List Nat :=
  [0, 1, 62, 28, 27] ++ [36, 44, 6, 55, 20] ++ [3, 10, 43, 25, 39] ++ [41, 45, 15, 21, 8] ++ [18, 2, 61, 56, 14]

/-- The steps rho and pi: the lane at `x`, `y` comes, rotated, from `x + 3y`, `x`.
PRESUMED, unsafe (log entry 9): FIPS 202. -/
def keccakRhoPi (a : List (BitVec 64)) : List (BitVec 64) :=
  lanesOf fun x y =>
    (laneAt a (x + 3 * y) x).rotateLeft (keccakOffsets.getD ((x + 3 * y) % 5 + 5 * x) 0)

/-- The step chi. PRESUMED, unsafe (log entry 9): FIPS 202. -/
def keccakChi (a : List (BitVec 64)) : List (BitVec 64) :=
  lanesOf fun x y => laneAt a x y ^^^ (~~~ laneAt a (x + 1) y &&& laneAt a (x + 2) y)

/-- The step iota: the round constant goes into lane 0. PRESUMED, unsafe (log entry 9): FIPS 202. -/
def keccakIota (rc : BitVec 64) (a : List (BitVec 64)) : List (BitVec 64) :=
  a.set 0 (laneAt a 0 0 ^^^ rc)

/-- The 24 round constants. PRESUMED, unsafe (log entry 9): FIPS 202. -/
def keccakConstants : List (BitVec 64) :=
  [0x0000000000000001, 0x0000000000008082, 0x800000000000808A, 0x8000000080008000] ++
  [0x000000000000808B, 0x0000000080000001, 0x8000000080008081, 0x8000000000008009] ++
  [0x000000000000008A, 0x0000000000000088, 0x0000000080008009, 0x000000008000000A] ++
  [0x000000008000808B, 0x800000000000008B, 0x8000000000008089, 0x8000000000008003] ++
  [0x8000000000008002, 0x8000000000000080, 0x000000000000800A, 0x800000008000000A] ++
  [0x8000000080008081, 0x8000000000008080, 0x0000000080000001, 0x8000000080008008]

/-- One round of Keccak-f. -/
def keccakRound (a : List (BitVec 64)) (rc : BitVec 64) : List (BitVec 64) :=
  keccakIota rc (keccakChi (keccakRhoPi (keccakTheta a)))

/-- `Perm_K` (40_packing R79): Keccak-f[1600] for 24 rounds; for another round count, which R79 does not state, a free
value. -/
def permK (r : BitVec 8) (w : Words) : Words :=
  if r = 24#8 then wordsOf (keccakConstants.foldl keccakRound ((List.range 25).map (laneOf w)))
  else Config.permKOther r w

/-- `Perm(RND, w)` of the permutation an instance was constructed with; `RND` is passed unchanged
(40_packing R76, R77). -/
def permute : Provider → BitVec 8 → Words → Words
  | .external => Config.perm
  | .identity => permI
  | .keccak => permK

end Sys2Proof.Machine
end

