-- ==== Sys2Proof/Machine/Ops.lean ====
section
/-! DEFINITION. The named operations of the machine: the updates of each piece of state, the permutation port, block
completion, the snapshot and output loop of SQUEEZE, zeroing, accepting a command, and rejecting one, which is KSW's whole
error mechanism (there is no trap and no return from one: 60_exceptions R118, R119). -/

namespace Sys2Proof.Machine

/-- Writes `W`. -/
def State.setW (s : State) (w : Words) : State := { s with w := w }

/-- Writes `Q`. -/
def State.setQ (s : State) (q : List Byte) : State := { s with q := q }

/-- Writes `C`. -/
def State.setC (s : State) (c : Nat) : State := { s with c := c }

/-- Writes the error record, `STATUS` and `ERRCMD`. -/
def State.setRecord (s : State) (status : BitVec 32) (errcmd : BitVec 64) : State :=
  { s with status := status, errcmd := errcmd }

/-- Appends one SQUEEZE's bytes to `OUT` (10_state R34). -/
def State.emit (s : State) (bytes : List Byte) : State := { s with out := s.out ++ [bytes] }

/-- Records a fault; none is ever cleared (60_exceptions R113). -/
def State.addFault (s : State) (f : Fault) : State := { s with faults := s.faults ++ [f] }

/-- Counts calls of the permutation (70_reset R138). -/
def State.countPerm (s : State) (k : Nat) : State := { s with permCalls := s.permCalls + k }

/-- The port has accepted the next command: `rest` is what is left of the stream, and `n` advances by one whether the
command completes or is rejected (10_state R27). -/
def State.accept (s : State) (rest : List Command) : State := { s with cmds := rest, n := s.n + 1 }

/-- The next command word and the state once the port has accepted it; none while the host has sent nothing
(10_state R33, 70_reset R128). -/
def takeCommand (s : State) : Option (Command × State) :=
  match s.cmds with
  | [] => none
  | cw :: rest => some (cw, s.accept rest)

/-- `P(w) = Perm(RND, w)` (00_scope R13, 40_packing R76). -/
def State.perm (s : State) (w : Words) : Words := permute s.provider s.cfg.rnd w

/-- BLOCK_COMPLETE (41_absorb R82): PACK the queue into `W`, one permutation, cursor to 0; the queue is not cleared. -/
def blockComplete (s : State) : State :=
  ((s.setW (s.perm (pack s.q s.w))).setC 0).countPerm 1

/-- `q[i] <- q[i] OR v`. -/
def orByte (i : Nat) (v : Byte) (q : List Byte) : List Byte := q.modify i (· ||| v)

/-- The first padding step: zero every byte from the cursor on, of a queue of `r` bytes (42_squeeze R91). -/
def zeroFrom (c r : Nat) (q : List Byte) : List Byte := q.take c ++ List.replicate (r - c) 0#8

/-- The padded snapshot of the queue (42_squeeze R91 to R93), for cursor `c`, rate `r` and padding byte `p`. -/
def padQueue (c r : Nat) (p : Byte) (q : List Byte) : List Byte :=
  orByte (r - 1) 0x80#8 (orByte c p (zeroFrom c r q))

/-- What the output loop of SQUEEZE yields: the bytes emitted and the number of permutation calls made. -/
structure Squeezed where
  bytes : List Byte
  calls : Nat
deriving DecidableEq, Repr

/-- The output loop of 42_squeeze R89 from snapshot words `w` and offset `off`: while `off < L`, permute, then emit the
first `min(RATE, L - off)` bytes of the image. The first argument bounds the passes; each emits at least one byte, so `L`
passes are enough. -/
def squeezeLoop (P : Words → Words) (r L : Nat) : Nat → Words → Nat → Squeezed
  | 0, _, _ => ⟨[], 0⟩
  | fuel + 1, w, off =>
    if off < L then
      let w' := P w
      let m := min r (L - off)
      let rest := squeezeLoop P r L fuel w' (off + m)
      ⟨(unpack w' r).take m ++ rest.bytes, rest.calls + 1⟩
    else ⟨[], 0⟩

/-- The snapshot words once the padded queue is mixed in (42_squeeze R90 to R94). -/
def snapshot (p : Byte) (s : State) : Words :=
  pack (padQueue s.c (rate s.cfg) p s.q) s.w

/-- The output of SQUEEZE(L, p) in state `s` (42_squeeze R89, R95). -/
def squeezed (L : Nat) (p : Byte) (s : State) : Squeezed :=
  squeezeLoop s.perm (rate s.cfg) L L (snapshot p s) 0

/-- SQUEEZE(L, p) (42_squeeze R89): only `OUT` grows, and the permutation calls are counted. -/
def squeezeOp (L : Nat) (p : Byte) (s : State) : State :=
  (s.emit (squeezed L p s).bytes).countPerm (squeezed L p s).calls

/-- RESET's three assignments (43_reset R105). -/
def zeroSponge (s : State) : State :=
  ((s.setW (Vector.replicate 50 0#32)).setQ (List.replicate (rate s.cfg) 0#8)).setC 0

/-- A rejection of command `n`, the word `cw`, with cause `k` (60_exceptions R110, R111, R113): the error record and the
list of faults, and nothing else. KSW goes on with the next command (R112). -/
def rejectCommand (n : Nat) (cw : Command) (k : Cause) (s : State) : State :=
  (s.setRecord (statusReject k s.status) (errcmdReject cw s.status s.errcmd)).addFault (.commandError n k)

end Sys2Proof.Machine
end

