-- ==== Sys2Proof/Machine/Absorb.lean ====
section
/-! DEFINITION. The meaning of ABSORB (41_absorb R81 to R88). -/

namespace Sys2Proof.Machine

/-- ABSORB(b) (41_absorb R81): the byte goes to `Q[C]`; the byte that fills the queue completes the block, any other moves
the cursor on. -/
def absorbByte (b : Byte) (s : State) : State :=
  let s' := s.setQ (s.q.set s.c b)
  if s.c + 1 = rate s.cfg then blockComplete s' else s'.setC (s.c + 1)

/-- ABSORB: no flag, no failure (41_absorb R81, 60_exceptions R114). -/
def execAbsorb (b : Byte) (s : State) : Host.Outcome State Fault Refusal := .next (absorbByte b s)

end Sys2Proof.Machine
end

