-- ==== Sys2Proof/Machine/Reset.lean ====
section
/-! DEFINITION. The meaning of RESET (43_reset R105 to R108). -/

namespace Sys2Proof.Machine

/-- RESET: `W`, `Q` and `C` to zero; configuration, `STATUS`, `ERRCMD` and `OUT` stay (43_reset R105, R106). -/
def execReset (s : State) : Host.Outcome State Fault Refusal := .next (zeroSponge s)

end Sys2Proof.Machine
end

