-- ==== Sys2Proof/Machine/Operands.lean ====
section
/-! DEFINITION. The operand forms of SQUEEZE (30_encoding R58 to R60): how the four forms give the output length `L` and the
padding byte `p`. ABSORB's byte is used as it is (R58). -/

namespace Sys2Proof.Machine

/-- `L` with `DEF = 0`: `LEN`, unsigned, neither scaled nor shifted (30_encoding R58, R59). -/
def lenField (len : BitVec 32) : Nat := len.toNat

/-- `L` with `DEF = 1`: `DEFLEN` (30_encoding R59, 42_squeeze R98). -/
def lenDefault (s : State) : Nat := defLen s.cfg

/-- `p` with `POV = 0`: `PAD` (30_encoding R60). -/
def padDefault (s : State) : Byte := s.cfg.pad

/-- `p` with `POV = 1`: `PADV` exactly, 0x00 included (30_encoding R60, 42_squeeze R99). -/
def padOverride (padv : Byte) : Byte := padv

end Sys2Proof.Machine
end

