-- ==== Sys2Proof/Machine/Squeeze.lean ====
section
/-! DEFINITION. The meanings of the four SQUEEZE forms (42_squeeze R89 to R104). -/

namespace Sys2Proof.Machine

/-- SQUEEZE: `DEF = 0`, `POV = 0` (42_squeeze R89). -/
def execSqueeze (len : BitVec 32) (s : State) : Host.Outcome State Fault Refusal :=
  .next (squeezeOp (lenField len) (padDefault s) s)

/-- SQUEEZE.PAD: `DEF = 0`, `POV = 1` (42_squeeze R99). -/
def execSqueezePad (padv : Byte) (len : BitVec 32) (s : State) : Host.Outcome State Fault Refusal :=
  .next (squeezeOp (lenField len) (padOverride padv) s)

/-- SQUEEZE.DEF: `DEF = 1`, `POV = 0` (42_squeeze R98). -/
def execSqueezeDef (s : State) : Host.Outcome State Fault Refusal :=
  .next (squeezeOp (lenDefault s) (padDefault s) s)

/-- SQUEEZE.DEF.PAD: `DEF = 1`, `POV = 1` (42_squeeze R98, R99). -/
def execSqueezeDefPad (padv : Byte) (s : State) : Host.Outcome State Fault Refusal :=
  .next (squeezeOp (lenDefault s) (padOverride padv) s)

end Sys2Proof.Machine
end

