-- ==== Sys2Proof/Machine/Dispatch.lean ====
section
/-! DEFINITION. The dispatch of a decoded command to its meaning: one arm per row of the opcode map (30_encoding R67). -/

namespace Sys2Proof.Machine

def exec (i : Instr) (s : State) : Host.Outcome State Fault Refusal :=
  match i with
  | .absorb b => Sys2Proof.Machine.execAbsorb b s
  | .squeeze len => Sys2Proof.Machine.execSqueeze len s
  | .squeezePad padv len => Sys2Proof.Machine.execSqueezePad padv len s
  | .squeezeDef => Sys2Proof.Machine.execSqueezeDef s
  | .squeezeDefPad padv => Sys2Proof.Machine.execSqueezeDefPad padv s
  | .reset => Sys2Proof.Machine.execReset s

end Sys2Proof.Machine
end

