-- ==== Sys2Proof/Machine/Step.lean ====
section
/-! DEFINITION. One step of KSW: the command port accepts the next word of the host's stream, and the command runs whole or
is rejected (10_state R27, R33; 60_exceptions R111, R112). -/

namespace Sys2Proof.Machine

/-- One atomic step per command (20_memory R46, 70_reset R137). With no command sent KSW waits: the state stays
(70_reset R128). DEDUCED, safe (log entry 3). -/
def step (s : State) : Host.Outcome State Fault Refusal :=
  match takeCommand s with
  | none => .next s
  | some (cw, s') =>
    match decode cw with
    | .command i => exec i s'
    | .reject k => .next (rejectCommand s.n cw k s')

/-- The table's word put at the head of the command stream, where the next step takes it: it stands for the host sending
that word. DESIGN CHOICE, safe (log entry 4). -/
def State.withFetchWord (s : State) (nbits w : Nat) : State :=
  { s with cmds := BitVec.ofNat 64 (w % 2 ^ nbits) :: s.cmds }

end Sys2Proof.Machine
end

