-- ==== Sys2Proof/Machine/Asm.lean ====
section
/-! DEFINITION. The assembler (30_encoding R65, R66) and the program listing (R68): assembly lines as data, the commands and
words they stand for, reading a line from its characters, and writing a command and a listing line as characters. -/

namespace Sys2Proof.Machine

/-- An assembly line: the forms of 30_encoding R65 and the two pseudo-instructions of R66, with the numbers as written. -/
inductive AsmLine where
  /-- `absorb <byte>` -/
  | absorb (b : Nat)
  /-- `squeeze <len>`, or with `pad=<byte>` -/
  | squeeze (len : Nat) (pad : Option Nat)
  /-- `squeeze def`, or with `pad=<byte>` -/
  | squeezeDef (pad : Option Nat)
  /-- `reset` -/
  | reset
  /-- `absorb.seq b0, b1, ...` -/
  | absorbSeq (bs : List Nat)
  /-- `absorb.str "<text>"`, the text's own characters -/
  | absorbStr (text : List Char)
deriving DecidableEq, Repr

/-- `absorb.seq` on bytes: one ABSORB each, in order (30_encoding R66, 41_absorb R84). -/
def absorbSeq (bs : List Byte) : List Instr := bs.map .absorb

/-- The commands of a line, in order; none where an operand does not fit (30_encoding R65, R66). -/
def assemble : AsmLine → Option (List Instr)
  | .absorb b => if isByte b then some [.absorb (BitVec.ofNat 8 b)] else none
  | .squeeze len none => if isLen len then some [.squeeze (BitVec.ofNat 32 len)] else none
  | .squeeze len (some p) =>
    if isLen len && isByte p then some [.squeezePad (BitVec.ofNat 8 p) (BitVec.ofNat 32 len)] else none
  | .squeezeDef none => some [.squeezeDef]
  | .squeezeDef (some p) => if isByte p then some [.squeezeDefPad (BitVec.ofNat 8 p)] else none
  | .reset => some [.reset]
  | .absorbSeq bs => if bs.all isByte then some (absorbSeq (bs.map (BitVec.ofNat 8))) else none
  | .absorbStr text =>
    if text.all isText then some (absorbSeq (text.map fun c => BitVec.ofNat 8 c.toNat)) else none

/-- The command words of a line (30_encoding R65). -/
def assembleWords (l : AsmLine) : Option (List Command) := (assemble l).map (·.map encode)

/-- The value of a digit, hexadecimal ones in either case. -/
def digitVal (c : Char) : Option Nat :=
  if 48 ≤ c.toNat && c.toNat ≤ 57 then some (c.toNat - 48)
  else if 97 ≤ c.toNat && c.toNat ≤ 102 then some (c.toNat - 87)
  else if 65 ≤ c.toNat && c.toNat ≤ 70 then some (c.toNat - 55)
  else none

/-- Digits of a base, most significant first, after the value `acc`. -/
def parseDigits (base : Nat) : List Char → Nat → Option Nat
  | [], acc => some acc
  | c :: cs, acc =>
    match digitVal c with
    | some d => if d < base then parseDigits base cs (acc * base + d) else none
    | none => none

/-- A number: decimal, or hexadecimal with a `0x` prefix (30_encoding R65). -/
def parseNum : List Char → Option Nat
  | [] => none
  | ['0', 'x'] => none
  | '0' :: 'x' :: cs => parseDigits 16 cs 0
  | cs => parseDigits 10 cs 0

/-- Spaces at both ends dropped. DESIGN CHOICE, safe (log entry 15). -/
def trim (cs : List Char) : List Char :=
  ((cs.dropWhile (· == ' ')).reverse.dropWhile (· == ' ')).reverse

/-- The operands of a line, separated by commas (30_encoding R65). -/
def splitComma : List Char → List (List Char)
  | [] => [[]]
  | ',' :: cs => [] :: splitComma cs
  | c :: cs =>
    match splitComma cs with
    | [] => [[c]]
    | x :: xs => (c :: x) :: xs

/-- The operand `pad=<byte>` (30_encoding R65). -/
def parsePad : List Char → Option Nat
  | 'p' :: 'a' :: 'd' :: '=' :: cs => parseNum cs
  | _ => none

/-- The text of `absorb.str` after its opening quote: `\"` stands for 0x22, and the closing quote ends the line
(30_encoding R66). A backslash before any other character stands for itself: DESIGN CHOICE, safe (log entry 15). -/
def parseText : List Char → Option (List Char)
  | [] => none
  | ['"'] => some []
  | '\\' :: '"' :: cs => (parseText cs).map ('"' :: ·)
  | '"' :: _ :: _ => none
  | c :: cs => (parseText cs).map (c :: ·)

/-- The operands after `squeeze`. -/
def parseSqueeze (ops : List (List Char)) : Option AsmLine :=
  match ops with
  | [x] => if x = ['d', 'e', 'f'] then some (.squeezeDef none) else (parseNum x).map (.squeeze · none)
  | [x, y] =>
    match parsePad y with
    | none => none
    | some p =>
      if x = ['d', 'e', 'f'] then some (.squeezeDef (some p)) else (parseNum x).map (.squeeze · (some p))
  | _ => none

/-- The numbers of `absorb.seq`; an empty list of them is an empty line of commands (30_encoding R66). -/
def parseNums : List (List Char) → Option (List Nat)
  | [] => some []
  | x :: xs =>
    match parseNum x, parseNums xs with
    | some v, some vs => some (v :: vs)
    | _, _ => none

/-- One line of assembly: a mnemonic, then its operands separated by commas (30_encoding R65, R66). -/
def parseLine (cs : List Char) : Option AsmLine :=
  let line := trim cs
  let mnemonic := line.takeWhile (· != ' ')
  let rest := trim (line.dropWhile (· != ' '))
  if mnemonic = ['a', 'b', 's', 'o', 'r', 'b'] then (parseNum rest).map .absorb
  else if mnemonic = ['s', 'q', 'u', 'e', 'e', 'z', 'e'] then parseSqueeze ((splitComma rest).map trim)
  else if mnemonic = ['r', 'e', 's', 'e', 't'] then if rest = [] then some .reset else none
  else if mnemonic = ['a', 'b', 's', 'o', 'r', 'b', '.', 's', 'e', 'q'] then
    if rest = [] then some (.absorbSeq []) else (parseNums ((splitComma rest).map trim)).map .absorbSeq
  else if mnemonic = ['a', 'b', 's', 'o', 'r', 'b', '.', 's', 't', 'r'] then
    match rest with
    | '"' :: t => (parseText t).map .absorbStr
    | _ => none
  else none

/-- A hexadecimal digit, capital as in the listing of 30_encoding R68. -/
def hexDigit (v : Nat) : Char := if v < 10 then Char.ofNat (48 + v) else Char.ofNat (55 + v)

/-- A number as `k` hexadecimal digits, the lowest ones. -/
def hexDigits : Nat → Nat → List Char
  | 0, _ => []
  | k + 1, v => hexDigits k (v / 16) ++ [hexDigit (v % 16)]

/-- A byte as the listing writes it: `0x` and two digits (30_encoding R68). -/
def showByte (b : Byte) : List Char := '0' :: 'x' :: hexDigits 2 b.toNat

/-- A command as assembly (30_encoding R65, R68). -/
def showInstr : Instr → List Char
  | .absorb b => ['a', 'b', 's', 'o', 'r', 'b', ' '] ++ showByte b
  | .squeeze len => ['s', 'q', 'u', 'e', 'e', 'z', 'e', ' '] ++ Nat.toDigits 10 len.toNat
  | .squeezePad padv len =>
    ['s', 'q', 'u', 'e', 'e', 'z', 'e', ' '] ++ Nat.toDigits 10 len.toNat ++ [',', ' ', 'p', 'a', 'd', '='] ++ showByte padv
  | .squeezeDef => ['s', 'q', 'u', 'e', 'e', 'z', 'e', ' ', 'd', 'e', 'f']
  | .squeezeDefPad padv =>
    ['s', 'q', 'u', 'e', 'e', 'z', 'e', ' ', 'd', 'e', 'f', ',', ' ', 'p', 'a', 'd', '='] ++ showByte padv
  | .reset => ['r', 'e', 's', 'e', 't']

/-- One line of a program listing: the command index, the 16-hex-digit word, then the assembly (30_encoding R68). -/
def listing (n : Nat) (i : Instr) : List Char :=
  Nat.toDigits 10 n ++ [':', ' '] ++ hexDigits 16 (encode i).toNat ++ [' ', ' '] ++ showInstr i

end Sys2Proof.Machine
end

