-- ==== Sys2Proof/Machine/Ports.lean ====
section
/-! DEFINITION. The host's interactions with an instance (10_state R30 to R34, 70_reset R141): constructing it, sending
command words, and the register read port. The output stream is State's `out`. The host has no other move. -/

namespace Sys2Proof.Machine

/-- CONSTRUCT (70_reset R126): a legal configuration gives a fresh instance; any other is refused and no instance exists
(R127, 60_exceptions R115). -/
def construct (capacity padding rounds : Int) (p : Provider) : Host.Outcome State Fault Refusal :=
  if legal capacity padding rounds then
    .next (State.fresh ⟨BitVec.ofInt 16 capacity, BitVec.ofInt 8 padding, BitVec.ofInt 8 rounds⟩ p)
  else .refused .illegalConfiguration

/-- The host sends a command word: it waits behind the words already sent (10_state R33, 20_memory R49). -/
def send (cw : Command) (s : State) : State := { s with cmds := s.cmds ++ [cw] }

/-- The host sends command words over a byte transport, least significant byte first (20_memory R42).
DESIGN CHOICE, unsafe (log entry 18): the spec does not say what becomes of fewer than eight trailing bytes; here they form
no word, stay out of State, and are handed back to the host. -/
def sendBytes (bytes : List Byte) (s : State) : State × List Byte :=
  let r := commandsOfBytes bytes
  ({ s with cmds := s.cmds ++ r.1 }, r.2)

/-- The register read port (10_state R31): a 32-bit value for a word address. It only reads: no side effect, no error, no
command (R32). -/
def readReg (s : State) (a : Nat) : BitVec 32 :=
  match a with
  | 0x00 => s.status
  | 0x01 => s.cfg.cap.zeroExtend 32
  | 0x02 => s.cfg.pad.zeroExtend 32
  | 0x03 => s.cfg.rnd.zeroExtend 32
  | 0x04 => (BitVec.ofNat 8 (rate s.cfg)).zeroExtend 32
  | 0x05 => (BitVec.ofNat 8 (defLen s.cfg)).zeroExtend 32
  | 0x06 => s.errcmd.extractLsb' 0 32
  | 0x07 => s.errcmd.extractLsb' 32 32
  | _ => 0#32

end Sys2Proof.Machine
end

