-- ==== Sys2Proof/Machine/Stream.lean ====
section
/-! DEFINITION. Runs of KSW (70_reset R140): a finite stream of commands or command words, one step each. -/

namespace Sys2Proof.Machine

/-- Commands one after the other, each from the state the one before it left (20_memory R49). -/
def execAll : List Instr → State → Host.Outcome State Fault Refusal
  | [], s => .next s
  | i :: is, s =>
    match exec i s with
    | .next s' => execAll is s'
    | .fault r => .fault r
    | .refused r => .refused r

/-- A run over the host's command stream: the words wait on the port, and each takes one step (70_reset R140). -/
def runWords (cws : List Command) (s : State) : Host.Outcome State Fault Refusal :=
  Host.Core.run Sys2Proof.core cws.length { s with cmds := cws }

end Sys2Proof.Machine
end

