-- ==== Sys2Proof/Safety.lean ====
section
/-! DEFINITION. The terms claims are made in (70_reset R140, R142; 60_exceptions R113): the invariant of an instance, the clean
states a claim may start from, what a run's observation is, which states the host cannot tell apart, and the byte and count
formulas of the spec that statements compare the machine with. -/

namespace Sys2Proof.Machine

/-- The shape every constructed instance keeps: a legal configuration, a queue of `RATE` bytes, and `0 <= C < RATE`
(00_scope R7, 10_state R23, R24). -/
def State.Shape (s : State) : Prop :=
  legalConfig s.cfg = true ∧ s.q.length = rate s.cfg ∧ s.c < rate s.cfg

/-- `STATUS` once the first rejection had cause `k`: `ERR` 1, `CAUSE` the code, every reserved bit 0 (10_state R28). -/
def statusOf (k : Cause) : BitVec 32 := (causeCode k).zeroExtend 32 <<< 4 ||| 1#32

/-- The indexes of the recorded faults rise strictly and lie below `bound`. -/
def FaultsBelow (bound : Nat) (fs : List Fault) : Prop :=
  fs.Pairwise (fun f g => match f, g with | .commandError m _, .commandError m' _ => m < m') ∧
  ∀ f ∈ fs, match f with | .commandError m _ => m < bound

/-- The error record tells the first rejection since construction, and nothing before there was one
(10_state R28, R29; 60_exceptions R109, R111, R113). -/
def State.Record (s : State) : Prop :=
  (match s.faults with
    | [] => s.status = 0#32 ∧ s.errcmd = 0#64
    | .commandError _ k :: _ => s.status = statusOf k ∧ decode s.errcmd = .reject k) ∧
  FaultsBelow s.n s.faults

/-- The invariant of an instance: every step keeps it. -/
def State.Inv (s : State) : Prop := s.Shape ∧ s.Record

/-- No rejection so far: a claim about a run has this premise of the run's last state (60_exceptions R113). -/
def State.NoFault (s : State) : Prop := statusErr s.status = false

/-- `clean(s)` of 70_reset R142: no rejection so far, and the cursor in range. -/
def State.Clean (s : State) : Prop := s.NoFault ∧ s.c < rate s.cfg

/-- What a claim may read of a state (70_reset R142): the stale bytes `Q[C..RATE)` are not among it. -/
structure Observation where
  w : Words
  queued : List Byte
  c : Nat
  status : BitVec 32
  errcmd : BitVec 64
  out : List (List Byte)
deriving DecidableEq, Repr

/-- The observation of a state (70_reset R140, R142). -/
def State.observe (s : State) : Observation := ⟨s.w, s.q.take s.c, s.c, s.status, s.errcmd, s.out⟩

/-- Two states that differ in the stale queue bytes at most (10_state R25). -/
def SameButStale (s t : State) : Prop :=
  s.q.length = t.q.length ∧ s.q.take s.c = t.q.take s.c ∧ t = { s with q := t.q }

/-- Two instances of one configuration with the same error record and the same stream, whose secrets (`W`, `Q`, `C`, the
outputs) and permutation may be anything (10_state R22, R31). -/
def SamePublic (s t : State) : Prop :=
  s.cfg = t.cfg ∧ s.status = t.status ∧ s.errcmd = t.errcmd ∧ s.cmds = t.cmds

/-- Byte `i` of the byte image of `w`: bits `[bpos(i)+7 : bpos(i)]` of word `widx(i)` (20_memory R40). -/
def imageByte (w : Words) (i : Nat) : Byte := (wordAt w (widx i)).extractLsb' (bpos i) 8

/-- Byte `j` of the padded snapshot: the absorbed bytes, then `p` at the cursor, zeros, and 0x80 ORed into the last byte
(42_squeeze R91 to R93). -/
def paddedByte (s : State) (p : Byte) (j : Nat) : Byte :=
  (if j < s.c then byteAt s.q j else if j = s.c then p else 0#8) ||| (if j = rate s.cfg - 1 then 0x80#8 else 0#8)

/-- The padded block of a SQUEEZE, byte by byte (42_squeeze R91 to R93). -/
def paddedBlock (s : State) (p : Byte) : List Byte := (List.range (rate s.cfg)).map (paddedByte s p)

/-- `w_k = P^(k+1)(w)`, the words that span `k` of a SQUEEZE is read from (42_squeeze R95). -/
def spanWords (P : Words → Words) (w : Words) : Nat → Words
  | 0 => P w
  | k + 1 => P (spanWords P w k)

/-- Output byte `i` of SQUEEZE with padding byte `p`: `UNPACK(w_(i div RATE), RATE)[i mod RATE]` (42_squeeze R95). -/
def outByte (s : State) (p : Byte) (i : Nat) : Byte :=
  imageByte (spanWords s.perm (pack (paddedBlock s p) s.w) (i / rate s.cfg)) (i % rate s.cfg)

/-- The output of SQUEEZE(L, p), byte by byte (42_squeeze R95). -/
def outBytes (s : State) (L : Nat) (p : Byte) : List Byte := (List.range L).map (outByte s p)

/-- `ceil(L / RATE)`, the permutation calls of a SQUEEZE (42_squeeze R95, 70_reset R138). -/
def spans (r L : Nat) : Nat := (L + r - 1) / r

/-- What each form of SQUEEZE asks for: its output length and its padding byte (30_encoding R59, R60); none for the
commands that are no SQUEEZE. -/
def squeezeRequest (s : State) : Instr → Option (Nat × Byte)
  | .absorb _ => none
  | .squeeze len => some (len.toNat, s.cfg.pad)
  | .squeezePad padv len => some (len.toNat, padv)
  | .squeezeDef => some (s.cfg.cap.toNat / 8, s.cfg.pad)
  | .squeezeDefPad padv => some (s.cfg.cap.toNat / 8, padv)
  | .reset => none

/-- The commands that are one of the four forms of SQUEEZE (30_encoding R67). -/
def isSqueeze : Instr → Bool
  | .absorb _ => false
  | .squeeze _ => true
  | .squeezePad _ _ => true
  | .squeezeDef => true
  | .squeezeDefPad _ => true
  | .reset => false

/-- The state after SQUEEZE(L, p), from the byte formula: its output appended, its permutation calls counted, and nothing
else changed (42_squeeze R95, R100; 70_reset R138). -/
def afterSqueeze (s : State) (L : Nat) (p : Byte) : State :=
  { s with out := s.out ++ [outBytes s L p], permCalls := s.permCalls + spans (rate s.cfg) L }

/-- `W_t` of 41_absorb R85: the state words once the first `t` blocks of a message are mixed in. -/
def messageWords (P : Words → Words) (r : Nat) (M : List Byte) : Nat → Words
  | 0 => Vector.replicate 50 0#32
  | t + 1 => P (pack ((M.drop (t * r)).take r) (messageWords P r M t))

end Sys2Proof.Machine
end

