-- ==== Sys2Proof/Certificates/Slice0/Obligations.lean ====
section
/-! DEFINITION. The statements about KSW for the provers, each from the rules of spec/ its docstring cites. In their terms,
`permCalls` is the model's own count of permutation calls (log entry 7) and `provider` its name for the permutation an
instance was constructed with (log entry 1). -/

open Sys2Proof Sys2Proof.Machine

/-- O1. For every command, with every operand at every value its field admits, decode (encode i) is the command i. Cites:
30_encoding.md R55, 30_encoding.md R56, 30_encoding.md R57, 30_encoding.md R61. -/
def Obligations.DecodeEncodeRoundTrip : Prop :=
  ∀ i : Instr, decode (encode i) = .command i

/-- O2. If a 64-bit word decodes to a command, encoding that command gives the word back bit for bit, so encodings are
unique and no bit is dropped. Cites: 30_encoding.md R61, 30_encoding.md R63, 30_encoding.md R64. -/
def Obligations.AcceptedWordsAreEncodings : Prop :=
  ∀ (cw : Command) (i : Instr), decode cw = .command i → encode i = cw

/-- O3. The map has the six rows of R67; no word matches two of them; a word that matches a row decodes to that row's
command, whose operands are the row's fields (DATA in bits 7:0, LEN in bits 31:0, PADV in bits 47:40); a word that
matches none is rejected, with ILLEGAL_OPCODE if its opcode is not 0x01 to 0x03 and with RESERVED_FIELD otherwise.
Cites: R67. -/
def Obligations.OpcodeMapDecides : Prop :=
  opcodeMap =
    [⟨"ABSORB", "A", 0x0100000000000000#64, 0xFFFFFFFFFFFFFF00#64⟩,
     ⟨"SQUEEZE", "S", 0x0200000000000000#64, 0xFFFFFFFF00000000#64⟩,
     ⟨"SQUEEZE.PAD", "S", 0x0240000000000000#64, 0xFFFF00FF00000000#64⟩,
     ⟨"SQUEEZE.DEF", "S", 0x0280000000000000#64, 0xFFFFFFFFFFFFFFFF#64⟩,
     ⟨"SQUEEZE.DEF.PAD", "S", 0x02C0000000000000#64, 0xFFFF00FFFFFFFFFF#64⟩,
     ⟨"RESET", "R", 0x0300000000000000#64, 0xFFFFFFFFFFFFFFFF#64⟩] ∧
  ∀ cw : Command,
    (∀ r ∈ opcodeMap, ∀ r' ∈ opcodeMap, r.hits cw = true → r'.hits cw = true → r = r') ∧
    (cw &&& 0xFFFFFFFFFFFFFF00#64 = 0x0100000000000000#64 → decode cw = .command (.absorb (cw.extractLsb' 0 8))) ∧
    (cw &&& 0xFFFFFFFF00000000#64 = 0x0200000000000000#64 → decode cw = .command (.squeeze (cw.extractLsb' 0 32))) ∧
    (cw &&& 0xFFFF00FF00000000#64 = 0x0240000000000000#64 →
      decode cw = .command (.squeezePad (cw.extractLsb' 40 8) (cw.extractLsb' 0 32))) ∧
    (cw &&& 0xFFFFFFFFFFFFFFFF#64 = 0x0280000000000000#64 → decode cw = .command .squeezeDef) ∧
    (cw &&& 0xFFFF00FFFFFFFFFF#64 = 0x02C0000000000000#64 →
      decode cw = .command (.squeezeDefPad (cw.extractLsb' 40 8))) ∧
    (cw &&& 0xFFFFFFFFFFFFFFFF#64 = 0x0300000000000000#64 → decode cw = .command .reset) ∧
    ((∀ r ∈ opcodeMap, r.hits cw = false) →
      decode cw = .reject (if opcode cw = 0x01#8 ∨ opcode cw = 0x02#8 ∨ opcode cw = 0x03#8 then .reservedField else .illegalOpcode))

/-- O4. A word is rejected with cause ILLEGAL_OPCODE exactly when its opcode, bits 63:56, is 0x00 or one of 0x04 to 0xFF;
the other bits do not matter. Cites: R62. -/
def Obligations.IllegalOpcodesRejected : Prop :=
  ∀ cw : Command,
    decode cw = .reject .illegalOpcode ↔ cw.toNat / 2 ^ 56 = 0 ∨ (4 ≤ cw.toNat / 2 ^ 56 ∧ cw.toNat / 2 ^ 56 ≤ 0xFF)

/-- O5. For ABSORB words bits 55:8, for SQUEEZE words bits 53:48 and 39:32, LEN when DEF is 1 and PADV when POV is 0, for
RESET words bits 55:0: a nonzero value of any of them makes the decoder reject with RESERVED_FIELD, and the step
changes nothing but the error record, the recorded faults and the position in the command stream. Cites: R63. -/
def Obligations.ReservedFieldsRejected : Prop :=
  ∀ cw : Command,
    ((opcode cw = 0x01#8 ∧ field 8 48 cw ≠ 0#48) ∨
     (opcode cw = 0x02#8 ∧ (field 48 6 cw ≠ 0#6 ∨ field 32 8 cw ≠ 0#8 ∨ (field 55 1 cw = 1#1 ∧ field 0 32 cw ≠ 0#32) ∨
       (field 54 1 cw = 0#1 ∧ field 40 8 cw ≠ 0#8))) ∨
     (opcode cw = 0x03#8 ∧ field 0 56 cw ≠ 0#56)) →
    decode cw = .reject .reservedField ∧
    ∀ (s : State) (rest : List Command), s.cmds = cw :: rest →
      ∃ t, step s = .next t ∧
        t = { s with status := t.status, errcmd := t.errcmd, faults := t.faults, n := t.n, cmds := t.cmds }

/-- O6. A word of each command and each kind of rejection from the spec's worked decode table decodes as the table says.
Cites: 95_test_vectors.md V30. -/
def Obligations.WorkedWordsDecode : Prop :=
  decode 0x0100000000000061#64 = .command (.absorb 0x61) ∧
  decode 0x0200000000000014#64 = .command (.squeeze 20) ∧
  decode 0x02401F0000000014#64 = .command (.squeezePad 0x1F 20) ∧
  decode 0x0280000000000000#64 = .command .squeezeDef ∧
  decode 0x02C01F0000000000#64 = .command (.squeezeDefPad 0x1F) ∧
  decode 0x0300000000000000#64 = .command .reset ∧
  decode 0x0280000000000001#64 = .reject .reservedField ∧
  decode 0x07FFFFFFFFFFFFFF#64 = .reject .illegalOpcode

/-- O7. Any command words sent as bytes, bits 7:0 first and bits 63:56 last, followed by fewer than eight further bytes,
are read back as exactly those words with those bytes left over; that the further bytes form no word and are left over
is the model's choice (DESIGN CHOICE, log entry 18), since R42 says nothing of them. Cites: 20_memory.md R42. -/
def Obligations.TransportRoundTrip : Prop :=
  ∀ (cws : List Command) (tail : List Byte), tail.length < 8 →
    commandsOfBytes (cws.flatMap transportBytes ++ tail) = (cws, tail) ∧
    ∀ cw : Command, (transportBytes cw)[0]? = some (cw.extractLsb' 0 8) ∧ (transportBytes cw)[7]? = some (cw.extractLsb' 56 8)

/-- O8. Each line form of the assembly syntax assembles to the word the spec gives it, for every operand in range, and to
nothing for a byte above 255 or a length above 2^32 - 1. Cites: 30_encoding.md R65. -/
def Obligations.AssemblyWords : Prop :=
  ∀ b len : Nat,
    assembleWords (.absorb b) =
      (if b ≤ 255 then some [0x01#64 <<< 56 ||| BitVec.ofNat 64 b] else none) ∧
    assembleWords (.squeeze len none) =
      (if len ≤ 2 ^ 32 - 1 then some [0x02#64 <<< 56 ||| BitVec.ofNat 64 len] else none) ∧
    assembleWords (.squeeze len (some b)) =
      (if len ≤ 2 ^ 32 - 1 ∧ b ≤ 255 then
        some [0x02#64 <<< 56 ||| 1#64 <<< 54 ||| BitVec.ofNat 64 b <<< 40 ||| BitVec.ofNat 64 len] else none) ∧
    assembleWords (.squeezeDef none) = some [0x02#64 <<< 56 ||| 1#64 <<< 55] ∧
    assembleWords (.squeezeDef (some b)) =
      (if b ≤ 255 then some [0x02#64 <<< 56 ||| 1#64 <<< 55 ||| 1#64 <<< 54 ||| BitVec.ofNat 64 b <<< 40] else none) ∧
    assembleWords .reset = some [0x03#64 <<< 56]

/-- O9. absorb.seq of bytes expands to one ABSORB each, in order, an empty list to no command; absorb.str is absorb.seq
over the character codes of its text, of which only 0x20 to 0x7E are allowed. Cites: 30_encoding.md R66. -/
def Obligations.PseudoFormsExpandToAbsorbs : Prop :=
  (∀ bs : List Byte, assemble (.absorbSeq (bs.map (·.toNat))) = some (bs.map .absorb)) ∧
  assemble (.absorbSeq []) = some [] ∧
  (∀ bs : List Nat, (∃ v ∈ bs, 255 < v) → assemble (.absorbSeq bs) = none) ∧
  (∀ text : List Char, (∀ c ∈ text, 0x20 ≤ c.toNat ∧ c.toNat ≤ 0x7E) →
    assemble (.absorbStr text) = assemble (.absorbSeq (text.map (·.toNat)))) ∧
  (∀ text : List Char, (∃ c ∈ text, c.toNat < 0x20 ∨ 0x7E < c.toNat) → assemble (.absorbStr text) = none)

/-- O10. STATE_BYTES is 200, RATE is 200 - CAPACITY/4 and DEFLEN is CAPACITY/8; under a legal configuration RATE is one of
8, 16, ..., 200 and DEFLEN one of 0, 4, ..., 96, and RATE never exceeds STATE_BYTES. Cites: R8. -/
def Obligations.DerivedConstants : Prop :=
  stateBytes = 200 ∧
  ∀ cfg : Config, legalConfig cfg = true →
    rate cfg = 200 - cfg.cap.toNat / 4 ∧ defLen cfg = cfg.cap.toNat / 8 ∧
    (∃ k, 1 ≤ k ∧ k ≤ 25 ∧ rate cfg = 8 * k) ∧ (∃ k, k ≤ 24 ∧ defLen cfg = 4 * k) ∧ rate cfg ≤ stateBytes

/-- O11. For integers CAPACITY, PADDING and ROUNDS: if CAPACITY is a multiple of 32 from 0 to 768 and the others are 0 to
255, construct answers the state with CAP, PAD and RND those values, W, Q (RATE bytes), C, STATUS, ERRCMD and n all
zero and no output; otherwise it is refused and there is no instance. Cites: 70_reset_and_hazards.md R126,
70_reset_and_hazards.md R127, 10_state.md R36. -/
def Obligations.ConstructionSetsEveryState : Prop :=
  ∀ (capacity padding rounds : Int) (p : Provider),
    ((capacity % 32 = 0 ∧ 0 ≤ capacity ∧ capacity ≤ 768) ∧ (0 ≤ padding ∧ padding ≤ 255) ∧ (0 ≤ rounds ∧ rounds ≤ 255) →
      ∃ t, construct capacity padding rounds p = .next t ∧
        (t.cfg.cap.toNat : Int) = capacity ∧ (t.cfg.pad.toNat : Int) = padding ∧ (t.cfg.rnd.toNat : Int) = rounds ∧
        t.provider = p ∧ t.w = Vector.replicate 50 0#32 ∧ t.q = List.replicate (rate t.cfg) 0#8 ∧ t.c = 0 ∧
        t.status = 0#32 ∧ t.errcmd = 0#64 ∧ t.n = 0 ∧ t.out = [] ∧ t.cmds = []) ∧
    (¬ ((capacity % 32 = 0 ∧ 0 ≤ capacity ∧ capacity ≤ 768) ∧ (0 ≤ padding ∧ padding ≤ 255) ∧ (0 ≤ rounds ∧ rounds ≤ 255)) →
      construct capacity padding rounds p = .refused .illegalConfiguration)

/-- O12. State.reset has W, Q and C zero, Q of RATE bytes, STATUS, ERRCMD and n zero, and no output; its configuration
registers hold the model's choice 256, 0x06, 24 and its permutation is the external one (log entries 1 and 2: the spec
fixes neither). Cites: 10_state.md R36, 70_reset_and_hazards.md R126, 95_test_vectors.md V30. -/
def Obligations.PowerOnValues : Prop :=
  State.reset.w = Vector.replicate 50 0#32 ∧ State.reset.q = List.replicate (rate State.reset.cfg) 0#8 ∧ State.reset.c = 0 ∧
  State.reset.status = 0#32 ∧ State.reset.errcmd = 0#64 ∧ State.reset.n = 0 ∧ State.reset.out = [] ∧
  State.reset.cfg = ⟨256#16, 0x06#8, 24#8⟩ ∧ State.reset.provider = .external

/-- O13. For a block of n bytes, n a multiple of 8 up to 200: byte position i of the words after PACK holds what it held
before XOR byte i of the block if i < n, and is unchanged if i >= n. The 200 byte positions are distinct byte ranges
of the fifty words, four to a word, so the order of the XORs does not matter. Cites: R70. -/
def Obligations.PackXorsEachByteIntoItsPlace : Prop :=
  (∀ (block : List Byte) (w : Words), block.length % 8 = 0 → block.length ≤ 200 →
    ∀ i, i < 200 →
      imageByte (pack block w) i = (if i < block.length then imageByte w i ^^^ byteAt block i else imageByte w i)) ∧
  (∀ i, i < 200 → widx i < 50 ∧ (bpos i = 0 ∨ bpos i = 8 ∨ bpos i = 16 ∨ bpos i = 24)) ∧
  ∀ i j, i < 200 → j < 200 → widx i = widx j → bpos i = bpos j → i = j

/-- O14. For a block of n bytes, n a multiple of 8 up to 200, and each lane k below n/8: word 2k after PACK is what it was
XOR le32 of bytes 8k+4..8k+7, word 2k+1 is what it was XOR le32 of bytes 8k..8k+3, and words from n/4 on are
unchanged. Cites: 40_packing.md R69, 10_state.md R21, 20_memory.md R39. -/
def Obligations.PackWordsLittleEndian : Prop :=
  ∀ (block : List Byte) (w : Words), block.length % 8 = 0 → block.length ≤ 200 →
    (∀ k, 8 * k < block.length →
      wordAt (pack block w) (2 * k) = wordAt w (2 * k) ^^^
        le32 (byteAt block (8 * k + 4)) (byteAt block (8 * k + 5)) (byteAt block (8 * k + 6)) (byteAt block (8 * k + 7)) ∧
      wordAt (pack block w) (2 * k + 1) = wordAt w (2 * k + 1) ^^^
        le32 (byteAt block (8 * k)) (byteAt block (8 * k + 1)) (byteAt block (8 * k + 2)) (byteAt block (8 * k + 3))) ∧
    ∀ j, block.length / 4 ≤ j → j < 50 → wordAt (pack block w) j = wordAt w j

/-- O15. For n up to 200, UNPACK(w, n) has n bytes, and byte i is bits bpos(i)+7:bpos(i) of word widx(i); so a shorter
request is a prefix of the whole image, also when n is not a multiple of 8. Cites: 40_packing.md R72, 40_packing.md
R73, 20_memory.md R40. -/
def Obligations.UnpackReadsEachByteFromItsPlace : Prop :=
  ∀ (w : Words) (n : Nat), n ≤ 200 →
    (unpack w n).length = n ∧ unpack w n = (unpack w 200).take n ∧
    ∀ i, i < n → (unpack w n)[i]? = some ((wordAt w (widx i)).extractLsb' (bpos i) 8)

/-- O16. For every lane k and every j below 8, byte 8k+j of the state image is bits 8j+7:8j of the 64-bit lane made of
word 2k (high half) and word 2k+1 (low half). Cites: 10_state.md R21, 20_memory.md R39. -/
def Obligations.LaneBytesLittleEndian : Prop :=
  ∀ (w : Words) (k j : Nat), k < 25 → j < 8 →
    (image w)[8 * k + j]? = some ((wordAt w (2 * k) ++ wordAt w (2 * k + 1) : BitVec 64).extractLsb' (8 * j) 8)

/-- O17. For every block B of length n, a multiple of 8 at most 200: UNPACK(PACK(B, zeros), n) is B, and for every w byte
i of UNPACK(PACK(B, w), n) is byte i of UNPACK(w, n) XOR byte i of B, for i < n. Cites: R74. -/
def Obligations.UnpackInvertsPack : Prop :=
  ∀ block : List Byte, block.length % 8 = 0 → block.length ≤ 200 →
    unpack (pack block (Vector.replicate 50 0#32)) block.length = block ∧
    ∀ (w : Words) (i : Nat), i < block.length →
      byteAt (unpack (pack block w) block.length) i = byteAt (unpack w block.length) i ^^^ byteAt block i

/-- O18. For blocks A and B of one length, a multiple of 8 at most 200: PACK(A XOR B, w) is PACK(A, PACK(B, w)), PACK(B,
PACK(B, w)) is w, and PACK of an all-zero block is the identity. Cites: R75. -/
def Obligations.PackLinearOverXor : Prop :=
  ∀ (A B : List Byte) (w : Words), A.length = B.length → B.length % 8 = 0 → B.length ≤ 200 →
    pack (List.zipWith (· ^^^ ·) A B) w = pack A (pack B w) ∧ pack B (pack B w) = w ∧
    pack (List.replicate B.length 0#8) w = w

/-- O19. In every state whose cursor is not at the last queue byte, exec of ABSORB b answers the state with Q[C] = b and C
one higher, and every other piece of state unchanged; that the queue bytes above the cursor, which are stale, stay as
they were is the model's choice (DESIGN CHOICE, log entry 8), and no rule of the spec. Cites: 41_absorb.md R81. -/
def Obligations.AbsorbBelowLastByte : Prop :=
  ∀ (s : State) (b : Byte), s.c + 1 ≠ rate s.cfg →
    exec (.absorb b) s = .next { s with q := s.q.set s.c b, c := s.c + 1 }

/-- O20. In every state of good shape whose cursor is at RATE - 1, exec of ABSORB b answers a state with W =
P(PACK(Q[0..C) followed by b, W)), C = 0, every queue byte but the one written kept, and every other piece of state
unchanged but the model's count of permutation calls (log entry 7), which is one higher. That the queue bytes, all
stale once C is 0, keep what they held is the model's choice (DESIGN CHOICE, log entry 8): R25 and decision D15 let a
model hold any value there. Cites: 41_absorb.md R81, 41_absorb.md R82, 10_state.md R23, 10_state.md R25,
70_reset_and_hazards.md R138. -/
def Obligations.AbsorbCompletesTheBlock : Prop :=
  ∀ (s : State) (b : Byte), s.Shape → s.c + 1 = rate s.cfg →
    exec (.absorb b) s = .next { s with
      w := permute s.provider s.cfg.rnd (pack (s.q.take s.c ++ [b]) s.w), q := s.q.take s.c ++ [b], c := 0,
      permCalls := s.permCalls + 1 }

/-- O21. From every state of good shape, exec of ABSORB answers a state with 0 <= C < RATE; started at C = c it ends at c
+ 1 when c + 1 < RATE and at 0 otherwise; and no command of any kind leaves C = RATE. Cites: R83. -/
def Obligations.AbsorbCursorStaysBelowRate : Prop :=
  ∀ s : State, s.Shape →
    (∀ b : Byte, ∃ t, exec (.absorb b) s = .next t ∧ t.c < rate t.cfg ∧
      t.c = (if s.c + 1 < rate s.cfg then s.c + 1 else 0)) ∧
    ∀ (i : Instr) (t : State), exec i s = .next t → t.c ≠ rate t.cfg

/-- O22. When exec of ABSORB answers a next state: configuration, permutation, STATUS, ERRCMD, command index, command
stream, outputs and recorded faults are unchanged; every queue byte but the one at the cursor is unchanged (this
clause reads stale bytes: that the model keeps them, as R23 reads, is its choice, DESIGN CHOICE, log entry 8); and
when the block did not complete, W is unchanged too. Cites: 41_absorb.md R88, 10_state.md R23. -/
def Obligations.AbsorbFrame : Prop :=
  ∀ (s t : State) (b : Byte), exec (.absorb b) s = .next t →
    (t.cfg = s.cfg ∧ t.provider = s.provider ∧ t.status = s.status ∧ t.errcmd = s.errcmd ∧ t.n = s.n ∧
      t.cmds = s.cmds ∧ t.out = s.out ∧ t.faults = s.faults) ∧
    (t.q.length = s.q.length ∧ ∀ j, j ≠ s.c → t.q[j]? = s.q[j]?) ∧
    (s.c + 1 ≠ rate s.cfg → t.w = s.w ∧ t.permCalls = s.permCalls)

/-- O23. Absorbing M1 ++ M2 in one sequence does what absorbing M1 and then M2 does, from every state; it completes; and
the empty sequence changes nothing. Cites: 41_absorb.md R84. -/
def Obligations.AbsorbSequenceIsAFold : Prop :=
  ∀ (s : State) (M1 M2 : List Byte),
    ∃ t u, execAll (absorbSeq M1) s = .next t ∧ execAll (absorbSeq M2) t = .next u ∧
      execAll (absorbSeq (M1 ++ M2)) s = .next u ∧ execAll (absorbSeq []) s = .next s ∧
      u = (M1 ++ M2).foldl (fun st b => absorbByte b st) s

/-- O24. From a state whose W, Q and C are zero, under a legal configuration, absorbing a message M of length m = t*RATE +
r with r < RATE answers a state with C = r, Q[0..r) the last r bytes of M, W = W_t where W_0 is zero and W_(s+1) is
P(PACK(block s of M, W_s)), and exactly t more permutation calls in the model's count (log entry 7). Cites: R85. -/
def Obligations.AbsorbedMessageState : Prop :=
  ∀ (s : State) (M : List Byte), legalConfig s.cfg = true → s.w = Vector.replicate 50 0#32 →
    s.q = List.replicate (rate s.cfg) 0#8 → s.c = 0 →
    ∃ u, execAll (absorbSeq M) s = .next u ∧
      u.c = M.length % rate s.cfg ∧
      u.q.take u.c = M.drop (M.length / rate s.cfg * rate s.cfg) ∧
      u.w = messageWords s.perm (rate s.cfg) M (M.length / rate s.cfg) ∧
      u.permCalls = s.permCalls + M.length / rate s.cfg

/-- O25. Absorbing M1, then any number of SQUEEZE commands of any form, then M2, leaves the same state as absorbing M1 ++
M2, from every state, but for the outputs the SQUEEZEs appended and the model's count of permutation calls (log entry
7). Cites: R87. -/
def Obligations.SqueezesDoNotDisturbAbsorption : Prop :=
  ∀ (s : State) (M1 M2 : List Byte) (sq : List Instr), (∀ i ∈ sq, isSqueeze i = true) →
    ∃ t u, execAll (absorbSeq M1 ++ sq ++ absorbSeq M2) s = .next t ∧ execAll (absorbSeq (M1 ++ M2)) s = .next u ∧
      t = { u with out := t.out, permCalls := t.permCalls }

/-- O26. After absorbing a message whose length is a multiple of RATE from the zero state, C is 0, and the padded snapshot
of a following SQUEEZE with padding byte p has p in byte 0, 0x80 in byte RATE - 1, and zeros between. Cites: R136. -/
def Obligations.WholeBlocksLeaveAnEmptyQueue : Prop :=
  ∀ (s : State) (M : List Byte) (p : Byte), legalConfig s.cfg = true → s.w = Vector.replicate 50 0#32 →
    s.q = List.replicate (rate s.cfg) 0#8 → s.c = 0 → M.length % rate s.cfg = 0 →
    ∃ u, execAll (absorbSeq M) s = .next u ∧ u.c = 0 ∧
      padQueue u.c (rate u.cfg) p u.q = p :: List.replicate (rate s.cfg - 2) 0#8 ++ [0x80#8]

/-- O27. In every state of good shape the padded snapshot has RATE bytes; first every byte from the cursor on is zero and
those before it are the absorbed bytes; then the byte at the cursor is p; then the last byte is 0x80 when C < RATE - 1
and p OR 0x80 when C = RATE - 1, every other byte as before. Cites: R91, R92, R93. -/
def Obligations.PaddedSnapshotBytes : Prop :=
  ∀ (s : State) (p : Byte), s.Shape →
    let r := rate s.cfg
    let q1 := zeroFrom s.c r s.q
    let q2 := orByte s.c p q1
    let q3 := padQueue s.c r p s.q
    (q1.length = r ∧ (∀ j, s.c ≤ j → j < r → byteAt q1 j = 0#8) ∧ ∀ j, j < s.c → byteAt q1 j = byteAt s.q j) ∧
    (byteAt q2 s.c = byteAt q1 s.c ||| p ∧ byteAt q2 s.c = p ∧ ∀ j, j ≠ s.c → byteAt q2 j = byteAt q1 j) ∧
    (q3.length = r ∧ byteAt q3 (r - 1) = byteAt q2 (r - 1) ||| 0x80#8 ∧ (∀ j, j ≠ r - 1 → byteAt q3 j = byteAt q2 j) ∧
      (s.c < r - 1 → byteAt q3 (r - 1) = 0x80#8) ∧ (s.c = r - 1 → byteAt q3 (r - 1) = p ||| 0x80#8))

/-- O28. In every state of good shape each form of SQUEEZE completes and appends exactly L bytes to OUT, byte i being byte
i mod RATE of the image of P^(i div RATE + 1) of the padded queue packed into W; L is LEN or DEFLEN = CAPACITY/8 and
the padding byte PAD or PADV as the form says; the permutation calls are ceil(L/RATE), in the model's count (log entry
7); everything else is unchanged. Cites: 42_squeeze.md R89, 42_squeeze.md R95, 42_squeeze.md R96, 42_squeeze.md R98,
42_squeeze.md R99, 30_encoding.md R59, 30_encoding.md R60. -/
def Obligations.SqueezeOutputs : Prop :=
  ∀ s : State, s.Shape →
    (∀ len, exec (.squeeze len) s = .next (afterSqueeze s len.toNat s.cfg.pad)) ∧
    (∀ padv len, exec (.squeezePad padv len) s = .next (afterSqueeze s len.toNat padv)) ∧
    exec .squeezeDef s = .next (afterSqueeze s (s.cfg.cap.toNat / 8) s.cfg.pad) ∧
    ∀ padv, exec (.squeezeDefPad padv) s = .next (afterSqueeze s (s.cfg.cap.toNat / 8) padv)

/-- O29. In every state squeeze 0, with or without a padding override, and squeeze def when CAPACITY is 0 (DEFLEN = 0),
answer the state with an empty sequence appended to OUT and nothing else changed, the model's count of permutation
calls (log entry 7) included; that OUT records the emission of nothing as an empty sequence is the model's choice
(DESIGN CHOICE, log entry 6). Cites: 42_squeeze.md R97, 30_encoding.md R59. -/
def Obligations.SqueezeZeroLength : Prop :=
  ∀ (s : State) (padv : Byte),
    exec (.squeeze 0#32) s = .next { s with out := s.out ++ [[]] } ∧
    exec (.squeezePad padv 0#32) s = .next { s with out := s.out ++ [[]] } ∧
    (s.cfg.cap = 0#16 → exec .squeezeDef s = .next { s with out := s.out ++ [[]] } ∧
      exec (.squeezeDefPad padv) s = .next { s with out := s.out ++ [[]] })

/-- O30. From every state every form of SQUEEZE answers a next state whose W, Q, C, CAP, PAD, RND, permutation, STATUS,
ERRCMD, command index, command stream and recorded faults are unchanged; one byte sequence is appended to OUT, and
beside it only the model's count of permutation calls grows. Cites: R100. -/
def Obligations.SqueezeFrame : Prop :=
  ∀ (s : State) (i : Instr), isSqueeze i = true →
    ∃ t bytes, exec i s = .next t ∧ t.out = s.out ++ [bytes] ∧ s.permCalls ≤ t.permCalls ∧
      t.w = s.w ∧ t.q = s.q ∧ t.c = s.c ∧ t.cfg = s.cfg ∧ t.provider = s.provider ∧ t.status = s.status ∧
      t.errcmd = s.errcmd ∧ t.n = s.n ∧ t.cmds = s.cmds ∧ t.faults = s.faults

/-- O31. After a SQUEEZE with an override PADV, a plain SQUEEZE emits what it would have emitted without it; the override
command emits the bytes of padding byte PADV exactly, 0x00 included; PAD never changes. Cites: 42_squeeze.md R99,
30_encoding.md R60. -/
def Obligations.OverrideLastsOneCommand : Prop :=
  ∀ (s : State) (padv : Byte) (len len' : BitVec 32), s.Shape →
    ∃ t u, exec (.squeezePad padv len) s = .next t ∧ exec (.squeeze len') t = .next u ∧ t.cfg = s.cfg ∧
      t.out = s.out ++ [outBytes s len.toNat padv] ∧ u.out = s.out ++ [outBytes s len.toNat padv, outBytes s len'.toNat s.cfg.pad]

/-- O32. From every state: a SQUEEZE, then any list of commands of any kind, then a SQUEEZE emits in its last command the
bytes it emits there without the first SQUEEZE, and so in every command between; if the commands between are all
SQUEEZEs (no ABSORB, no RESET) and the first and the last ask for the same length and padding byte, those two emit
identical bytes; and from a fresh instance, after absorbing M1, a SQUEEZE, then M2, a SQUEEZE emits what a fresh
instance emits after M1 ++ M2. Cites: R101. -/
def Obligations.SqueezeRepeatable : Prop :=
  (∀ (s : State) (is : List Instr) (i j : Instr), isSqueeze i = true → isSqueeze j = true →
    ∃ x mid y t u, execAll ([i] ++ is ++ [j]) s = .next t ∧ execAll (is ++ [j]) s = .next u ∧
      t.out = s.out ++ [x] ++ mid ++ [y] ∧ u.out = s.out ++ mid ++ [y] ∧
      ((∀ k ∈ is, isSqueeze k = true) → squeezeRequest s i = squeezeRequest s j → x = y)) ∧
  ∀ (cfg : Config) (p : Provider) (M1 M2 : List Byte) (i j : Instr), isSqueeze i = true → isSqueeze j = true →
    ∃ x y t u, execAll (absorbSeq M1 ++ [i] ++ absorbSeq M2 ++ [j]) (State.fresh cfg p) = .next t ∧
      execAll (absorbSeq (M1 ++ M2) ++ [j]) (State.fresh cfg p) = .next u ∧ t.out = [x, y] ∧ u.out = [y]

/-- O33. In a state of good shape, if two SQUEEZE commands ask for lengths L1 <= L2 with one padding byte, the bytes of
the first are the first L1 bytes of the second. Cites: 42_squeeze.md R102. -/
def Obligations.SqueezePrefixes : Prop :=
  ∀ (s : State) (i j : Instr) (L1 L2 : Nat) (p : Byte), s.Shape → squeezeRequest s i = some (L1, p) →
    squeezeRequest s j = some (L2, p) → L1 ≤ L2 →
    ∃ x y t u, exec i s = .next t ∧ exec j s = .next u ∧ t.out = s.out ++ [x] ∧ u.out = s.out ++ [y] ∧
      y.length = L2 ∧ x = y.take L1

/-- O34. From every state exec of RESET answers the state with all fifty words, all RATE queue bytes and the cursor zero
and everything else unchanged; a second RESET changes nothing; the word is 0x0300000000000000. Cites: 43_reset.md
R105, 43_reset.md R108. -/
def Obligations.ResetZeroesTheSponge : Prop :=
  (∀ s : State, ∃ t, t = { s with w := Vector.replicate 50 0#32, q := List.replicate (rate s.cfg) 0#8, c := 0 } ∧
    exec .reset s = .next t ∧ exec .reset t = .next t) ∧
  encode .reset = 0x0300000000000000#64

/-- O35. From every state exec of RESET answers a next state with CAP, PAD, RND, STATUS, ERRCMD and OUT unchanged, and the
permutation, the command index, the command stream, the recorded faults and the model's count of permutation calls
too. Cites: R106. -/
def Obligations.ResetFrame : Prop :=
  ∀ s : State, ∃ t, exec .reset s = .next t ∧ t.cfg = s.cfg ∧ t.status = s.status ∧ t.errcmd = s.errcmd ∧
    t.out = s.out ∧ t.provider = s.provider ∧ t.n = s.n ∧ t.cmds = s.cmds ∧ t.faults = s.faults ∧ t.permCalls = s.permCalls

/-- O36. From every state, RESET makes W, Q and C equal to their values after construction, stale bytes included; and
after RESET any sequence of commands of any length emits exactly what it emits from a fresh instance of the same
configuration and permutation, and leaves the same W, cursor and queued bytes. Cites: R107. -/
def Obligations.ResetIndependence : Prop :=
  (∀ s : State, ∃ t, exec .reset s = .next t ∧ t.w = (State.fresh s.cfg s.provider).w ∧
    t.q = (State.fresh s.cfg s.provider).q ∧ t.c = (State.fresh s.cfg s.provider).c) ∧
  ∀ (s : State) (is : List Instr), ∃ t u, execAll (.reset :: is) s = .next t ∧
    execAll is (State.fresh s.cfg s.provider) = .next u ∧
    t.out = s.out ++ u.out ∧ t.w = u.w ∧ t.c = u.c ∧ t.q.take t.c = u.q.take u.c

/-- O37. When the decoder rejects the next word with cause k: if ERR was 0, CAUSE becomes the code of k and ERRCMD the
word; if ERR was 1, both stay; ERR becomes 1, and the other bits of STATUS stay. Once ERR is 1, no step of any kind,
RESET included, changes ERR, CAUSE or ERRCMD; a constructed instance has them 0. Cites: R111. -/
def Obligations.RejectionRecordsTheFirst : Prop :=
  (∀ (s : State) (cw : Command) (rest : List Command) (k : Cause), s.cmds = cw :: rest → decode cw = .reject k →
    ∃ t, step s = .next t ∧ statusErr t.status = true ∧
      (statusErr s.status = false → statusCause t.status = causeCode k ∧ t.errcmd = cw) ∧
      (statusErr s.status = true → statusCause t.status = statusCause s.status ∧ t.errcmd = s.errcmd) ∧
      ∀ j, j ≠ 0 → (j < 4 ∨ 8 ≤ j) → t.status.getLsbD j = s.status.getLsbD j) ∧
  (∀ s t : State, statusErr s.status = true → step s = .next t →
    statusErr t.status = true ∧ statusCause t.status = statusCause s.status ∧ t.errcmd = s.errcmd) ∧
  ∀ (cfg : Config) (p : Provider), (State.fresh cfg p).status = 0#32 ∧ (State.fresh cfg p).errcmd = 0#64

/-- O38. When the decoder rejects the next word, the step answers a state with W, Q, C, CAP, PAD, RND, the permutation,
OUT and the count of permutation calls unchanged, and nothing changed but the error record, the recorded faults and
the position in the stream; when it accepts the word, the step is the whole command. Cites: R110. -/
def Obligations.RejectionChangesNothingElse : Prop :=
  ∀ (s : State) (cw : Command) (rest : List Command), s.cmds = cw :: rest →
    (∀ k, decode cw = .reject k → ∃ t, step s = .next t ∧ t.w = s.w ∧ t.q = s.q ∧ t.c = s.c ∧ t.cfg = s.cfg ∧
      t.provider = s.provider ∧ t.out = s.out ∧ t.permCalls = s.permCalls ∧
      t = { s with status := t.status, errcmd := t.errcmd, faults := t.faults, n := s.n + 1, cmds := rest }) ∧
    ∀ i, decode cw = .command i → step s = exec i (s.accept rest)

/-- O39. When the decoder rejects the next word, the step answers a state in which the command index is past the word, the
queue and cursor are kept, the rest of the stream waits, and the next step takes the next word and answers a next
state. Cites: R112. -/
def Obligations.RejectionDoesNotStop : Prop :=
  ∀ (s : State) (cw : Command) (rest : List Command) (k : Cause), s.cmds = cw :: rest → decode cw = .reject k →
    ∃ t, step s = .next t ∧ t.n = s.n + 1 ∧ t.cmds = rest ∧ t.q = s.q ∧ t.c = s.c ∧
      ∀ cw' rest', rest = cw' :: rest' → ∃ u, step t = .next u ∧ u.cmds = rest' ∧ u.n = s.n + 2

/-- O40. When the decoder rejects word n with cause k, the step appends the fault (n, k) to the recorded faults; every
step keeps the faults recorded before it. Cites: 60_exceptions.md R113. -/
def Obligations.RejectionRecordedAsFault : Prop :=
  (∀ (s : State) (cw : Command) (rest : List Command) (k : Cause), s.cmds = cw :: rest → decode cw = .reject k →
    ∃ t, step s = .next t ∧ t.faults = s.faults ++ [.commandError s.n k]) ∧
  ∀ s t : State, step s = .next t → ∃ fs, t.faults = s.faults ++ fs

/-- O41. Every command, in every state, answers a next state with STATUS and ERRCMD unchanged; and every step answers a
next state, never a fault and never a refusal. Cites: 60_exceptions.md R114, 60_exceptions.md R112, 10_state.md R28. -/
def Obligations.AcceptedCommandsNeverFail : Prop :=
  (∀ (i : Instr) (s : State), ∃ t, exec i s = .next t ∧ t.status = s.status ∧ t.errcmd = s.errcmd) ∧
  ∀ s : State, ∃ t, step s = .next t

/-- O42. When the next word of the stream decodes to a command i, the step is exec of i on the state with the word taken
off the stream and the command index one higher; it adds nothing after it. Cites: 10_state.md R27, 10_state.md R33,
30_encoding.md R61. -/
def Obligations.StepRunsTheDecodedCommand : Prop :=
  ∀ (s : State) (cw : Command) (rest : List Command) (i : Instr), s.cmds = cw :: rest → decode cw = .command i →
    step s = exec i { s with cmds := rest, n := s.n + 1 }

/-- O43. When the host has sent no command the step answers the same state. Cites: 70_reset_and_hazards.md R128. -/
def Obligations.WaitsWithoutACommand : Prop :=
  ∀ s : State, s.cmds = [] → step s = .next s

/-- O44. From every state with a word on the port, the step answers a state whose command index is one higher and whose
stream is the rest, whichever word it is; a constructed instance has index 0; the index is a natural, so it does not
wrap. Cites: 10_state.md R27. -/
def Obligations.IndexCountsAcceptedWords : Prop :=
  (∀ (s : State) (cw : Command) (rest : List Command), s.cmds = cw :: rest →
    ∃ t, step s = .next t ∧ t.n = s.n + 1 ∧ t.cmds = rest) ∧
  ∀ (cfg : Config) (p : Provider), (State.fresh cfg p).n = 0

/-- O45. From every state, a run over the words of any list of commands takes one step per word, ends with the stream
empty and the command index past them, and is otherwise the state the commands leave when executed in order. Cites:
20_memory.md R49, 70_reset_and_hazards.md R140, 10_state.md R33. -/
def Obligations.RunsEndAndAreTheirCommands : Prop :=
  ∀ (is : List Instr) (s : State), ∃ t u, runWords (is.map encode) s = .next t ∧
    execAll is { s with cmds := [] } = .next u ∧ t = { u with n := s.n + is.length }

/-- O46. If a run over any words ends in a state with ERR = 0, then ERR was 0 before it and every word decodes to a
command; and from a clean state of good shape, a run whose words all decode to commands ends clean. Cites:
60_exceptions.md R113, 70_reset_and_hazards.md R140, 70_reset_and_hazards.md R142. -/
def Obligations.FaultFreeRunsAcceptEveryWord : Prop :=
  ∀ (cws : List Command) (s : State),
    (∀ t, runWords cws s = .next t → t.NoFault → s.NoFault ∧ ∀ cw ∈ cws, ∃ i, decode cw = .command i) ∧
    (s.Shape → s.Clean → (∀ cw ∈ cws, ∃ i, decode cw = .command i) → ∃ t, runWords cws s = .next t ∧ t.Clean)

/-- O47. State.reset meets the invariant of the instance, and so does the fresh state of every legal configuration and
every permutation, and any of them once the host has sent a word. Cites: 70_reset_and_hazards.md R126, 10_state.md
R36. -/
def Obligations.ConstructedInstancesMeetInvariant : Prop :=
  State.reset.Inv ∧ (∀ (cfg : Config) (p : Provider), legalConfig cfg = true → (State.fresh cfg p).Inv) ∧
  ∀ (s : State) (cw : Command), s.Inv → (send cw s).Inv

/-- O48. From every state that meets the invariant, the state a step answers meets it: the configuration is legal, Q has
RATE bytes and C < RATE; STATUS and ERRCMD are 0 when no rejection is recorded, and otherwise STATUS is exactly ERR
with the code of the first rejection, its reserved bits 0, and ERRCMD is a word the decoder rejects with that cause;
recorded indexes rise and stay below n. Cites: 10_state.md R24, 10_state.md R28, 10_state.md R29, 60_exceptions.md
R109, 60_exceptions.md R111. -/
def Obligations.StepKeepsInvariant : Prop :=
  ∀ s t : State, s.Inv → step s = .next t → t.Inv

/-- O49. Every step keeps CAP, PAD, RND and the permutation; construction sets them; and two configurations with the same
CAP have the same RATE and DEFLEN. Cites: 10_state.md R26, 70_reset_and_hazards.md R129. -/
def Obligations.ConfigurationNeverWritten : Prop :=
  (∀ s t : State, step s = .next t → t.cfg = s.cfg ∧ t.provider = s.provider) ∧
  (∀ (cfg : Config) (p : Provider), (State.fresh cfg p).cfg = cfg ∧ (State.fresh cfg p).provider = p) ∧
  ∀ cfg cfg' : Config, cfg.cap = cfg'.cap → rate cfg = rate cfg' ∧ defLen cfg = defLen cfg'

/-- O50. If a step changes W, the word it took decodes to RESET, or to an ABSORB at cursor RATE - 1. Cites: 10_state.md
R22, 41_absorb.md R82. -/
def Obligations.StateWordsWrittenOnlyByTwoCommands : Prop :=
  ∀ s t : State, step s = .next t → t.w ≠ s.w →
    ∃ cw rest i, s.cmds = cw :: rest ∧ decode cw = .command i ∧
      (i = .reset ∨ ∃ b, i = .absorb b ∧ s.c + 1 = rate s.cfg)

/-- O51. From a state of good shape, a step either leaves OUT unchanged, or the word it took decodes to a SQUEEZE asking
for L bytes and one sequence of exactly L bytes is appended. Cites: 10_state.md R34. -/
def Obligations.OnlySqueezeEmits : Prop :=
  ∀ s t : State, s.Shape → step s = .next t →
    t.out = s.out ∨ ∃ cw rest i L p bytes, s.cmds = cw :: rest ∧ decode cw = .command i ∧
      squeezeRequest s i = some (L, p) ∧ t.out = s.out ++ [bytes] ∧ bytes.length = L

/-- O52. Two states that differ at most in Q[C..RATE), of good shape, step to states that again differ at most so, and
whose observations (W, Q[0..C), C, STATUS, ERRCMD, OUT) are equal. Cites: 10_state.md R25, 42_squeeze.md R91,
70_reset_and_hazards.md R142. -/
def Obligations.StaleQueueBytesUnobservable : Prop :=
  ∀ s t : State, s.Shape → SameButStale s t →
    ∃ s' t', step s = .next s' ∧ step t = .next t' ∧ s'.Shape ∧ SameButStale s' t' ∧ s'.observe = t'.observe

/-- O53. Two instances with one configuration, one error record and one command stream, whatever their W, Q, C, outputs
and permutations, give equal reads at every register address, and step to two instances of which the same holds.
Cites: 10_state.md R22, 10_state.md R23, 10_state.md R31, 92_eei_decisions.md D13. -/
def Obligations.RegisterPortTellsNoSecret : Prop :=
  ∀ s t : State, SamePublic s t →
    (∀ a, readReg s a = readReg t a) ∧
    ∃ s' t', step s = .next s' ∧ step t = .next t' ∧ SamePublic s' t' ∧ ∀ a, readReg s' a = readReg t' a

/-- O54. Under a legal configuration, address 0 reads STATUS, 1 CAP, 2 PAD, 3 RND, 4 RATE, 5 DEFLEN, 6 the low and 7 the
high half of ERRCMD, each zero-extended to 32 bits, and any other address reads 0. Cites: 10_state.md R31, 10_state.md
R32. -/
def Obligations.RegisterMap : Prop :=
  ∀ s : State, legalConfig s.cfg = true →
    readReg s 0x00 = s.status ∧ (readReg s 0x01).toNat = s.cfg.cap.toNat ∧ (readReg s 0x02).toNat = s.cfg.pad.toNat ∧
    (readReg s 0x03).toNat = s.cfg.rnd.toNat ∧ (readReg s 0x04).toNat = rate s.cfg ∧ (readReg s 0x05).toNat = defLen s.cfg ∧
    (readReg s 0x06).toNat = s.errcmd.toNat % 2 ^ 32 ∧ (readReg s 0x07).toNat = s.errcmd.toNat / 2 ^ 32 ∧
    ∀ a, 0x07 < a → readReg s a = 0#32

/-- O55. From a state of good shape, in the model's count (log entry 7): ABSORB makes 0 permutation calls at C < RATE - 1
and 1 at C = RATE - 1; SQUEEZE of length L makes ceil(L/RATE); RESET makes 0; a rejected word makes 0. Cites: R138. -/
def Obligations.PermutationCallCounts : Prop :=
  ∀ s : State, s.Shape →
    (∀ b, ∃ t, exec (.absorb b) s = .next t ∧
      (s.c < rate s.cfg - 1 → t.permCalls = s.permCalls) ∧ (s.c = rate s.cfg - 1 → t.permCalls = s.permCalls + 1)) ∧
    (∀ i L p, squeezeRequest s i = some (L, p) →
      ∃ t, exec i s = .next t ∧ t.permCalls = s.permCalls + (L + rate s.cfg - 1) / rate s.cfg) ∧
    (∃ t, exec .reset s = .next t ∧ t.permCalls = s.permCalls) ∧
    ∀ cw rest k, s.cmds = cw :: rest → decode cw = .reject k → ∃ t, step s = .next t ∧ t.permCalls = s.permCalls
end

