-- ==== Sys2Proof/Laws/Decode.lean ====
section
/-! SUPPORT. Fields and encodings as numbers, so that a statement about words is one about quotients and remainders
(30_encoding R53 to R57, R65). -/

namespace Sys2Proof

theorem field_toNat (lo width : Nat) (cw : Command) :
    (field lo width cw).toNat = cw.toNat / 2 ^ lo % 2 ^ width := by
  simp [field, BitVec.extractLsb'_toNat, Nat.shiftRight_eq_div_pow]

/-- A field is its value, as numbers. -/
theorem field_eq_iff (lo width : Nat) (cw : Command) (v : BitVec width) :
    field lo width cw = v ↔ cw.toNat / 2 ^ lo % 2 ^ width = v.toNat := by
  rw [← field_toNat, BitVec.toNat_inj]

theorem place_toNat (lo : Nat) {width : Nat} (v : BitVec width) (h : width + lo ≤ 64) :
    (place lo v).toNat = v.toNat * 2 ^ lo := by
  have hv : v.toNat < 2 ^ width := v.isLt
  have hm : v.toNat * 2 ^ lo < 2 ^ (width + lo) := by
    rw [Nat.pow_add]; exact Nat.mul_lt_mul_of_pos_right hv (Nat.two_pow_pos lo)
  have h64 : 2 ^ (width + lo) ≤ 2 ^ 64 := Nat.pow_le_pow_right (by omega) h
  have hw : 2 ^ width ≤ 2 ^ 64 := Nat.pow_le_pow_right (by omega) (by omega)
  simp only [place, BitVec.truncate_eq_setWidth, BitVec.toNat_shiftLeft, BitVec.toNat_setWidth, Nat.shiftLeft_eq]
  rw [Nat.mod_eq_of_lt (a := v.toNat) (by omega), Nat.mod_eq_of_lt (by omega)]

/-- ORing a field in below a multiple of its top is adding it. -/
theorem or_eq_add (a b k : Nat) (hb : b < 2 ^ k) : a * 2 ^ k ||| b = a * 2 ^ k + b := by
  rw [← Nat.shiftLeft_eq, Nat.shiftLeft_add_eq_or_of_lt hb]

theorem encode_absorb_toNat (b : Byte) : (encode (.absorb b)).toNat = 0x01 * 2 ^ 56 + b.toNat := by
  have := b.isLt
  simp only [encode, BitVec.toNat_or, place_toNat _ _ (by decide : 8 + 56 ≤ 64), place_toNat _ _ (by decide : 8 + 0 ≤ 64)]
  rw [or_eq_add _ _ 56 (by omega)]
  simp

theorem encode_squeeze_toNat (len : BitVec 32) : (encode (.squeeze len)).toNat = 0x02 * 2 ^ 56 + len.toNat := by
  have := len.isLt
  simp only [encode, BitVec.toNat_or, place_toNat _ _ (by decide : 8 + 56 ≤ 64), place_toNat _ _ (by decide : 32 + 0 ≤ 64)]
  rw [or_eq_add _ _ 56 (by omega)]
  simp

theorem encode_squeezePad_toNat (padv : Byte) (len : BitVec 32) :
    (encode (.squeezePad padv len)).toNat = 0x02 * 2 ^ 56 + 2 ^ 54 + padv.toNat * 2 ^ 40 + len.toNat := by
  have := len.isLt
  have := padv.isLt
  simp only [encode, BitVec.toNat_or, place_toNat _ _ (by decide : 8 + 56 ≤ 64), place_toNat _ _ (by decide : 1 + 54 ≤ 64),
    place_toNat _ _ (by decide : 8 + 40 ≤ 64), place_toNat _ _ (by decide : 32 + 0 ≤ 64)]
  rw [or_eq_add _ _ 56 (by simp), show (2#8).toNat * 2 ^ 56 + (1#1).toNat * 2 ^ 54 = 9 * 2 ^ 54 by decide,
    or_eq_add _ _ 54 (by omega), show 9 * 2 ^ 54 + padv.toNat * 2 ^ 40 = (9 * 2 ^ 14 + padv.toNat) * 2 ^ 40 by omega,
    or_eq_add _ _ 40 (by omega)]
  omega

theorem encode_squeezeDef_toNat : (encode .squeezeDef).toNat = 0x02 * 2 ^ 56 + 2 ^ 55 := by decide

theorem encode_squeezeDefPad_toNat (padv : Byte) :
    (encode (.squeezeDefPad padv)).toNat = 0x02 * 2 ^ 56 + 2 ^ 55 + 2 ^ 54 + padv.toNat * 2 ^ 40 := by
  have := padv.isLt
  simp only [encode, BitVec.toNat_or, place_toNat _ _ (by decide : 8 + 56 ≤ 64), place_toNat _ _ (by decide : 1 + 54 ≤ 64),
    place_toNat _ _ (by decide : 1 + 55 ≤ 64), place_toNat _ _ (by decide : 8 + 40 ≤ 64)]
  rw [show (2#8).toNat * 2 ^ 56 ||| (1#1).toNat * 2 ^ 55 ||| (1#1).toNat * 2 ^ 54 = 11 * 2 ^ 54 by decide,
    or_eq_add _ _ 54 (by omega)]
  omega

theorem encode_reset_toNat : (encode .reset).toNat = 0x03 * 2 ^ 56 := by decide

end Sys2Proof
end

