-- ==== Sys2Proof/Laws/Params.lean ====
section
/-! SUPPORT. What a legal configuration gives (00_scope R7, R8). -/

namespace Sys2Proof.Machine

/-- `CAP` of a legal configuration, as numbers. -/
theorem legalConfig_cap {cfg : Config} (h : legalConfig cfg = true) :
    cfg.cap.toNat % 32 = 0 ∧ cfg.cap.toNat ≤ 768 := by
  simp only [legalConfig, legal, Bool.and_eq_true, beq_iff_eq, decide_eq_true_eq] at h
  omega

/-- The rate of a legal configuration is a multiple of 8 from 8 to 200 (00_scope R8). -/
theorem rate_of_legal {cfg : Config} (h : legalConfig cfg = true) :
    rate cfg % 8 = 0 ∧ 8 ≤ rate cfg ∧ rate cfg ≤ 200 := by
  have := legalConfig_cap h
  simp only [rate, stateBytes]
  omega

theorem rate_pos_of_legal {cfg : Config} (h : legalConfig cfg = true) : 0 < rate cfg := by
  have := rate_of_legal h
  omega

end Sys2Proof.Machine
end

