-- ==== Sys2Proof/Laws/State.lean ====
section
/-! SUPPORT. What each update of the state leaves in each of its fields: one lemma per field per update. -/

namespace Sys2Proof.Machine

variable (s : State)

@[simp] theorem State.setW_w (v : Words) : (s.setW v).w = v := rfl
@[simp] theorem State.setW_q (v : Words) : (s.setW v).q = s.q := rfl
@[simp] theorem State.setW_c (v : Words) : (s.setW v).c = s.c := rfl
@[simp] theorem State.setW_cfg (v : Words) : (s.setW v).cfg = s.cfg := rfl
@[simp] theorem State.setW_provider (v : Words) : (s.setW v).provider = s.provider := rfl
@[simp] theorem State.setW_status (v : Words) : (s.setW v).status = s.status := rfl
@[simp] theorem State.setW_errcmd (v : Words) : (s.setW v).errcmd = s.errcmd := rfl
@[simp] theorem State.setW_n (v : Words) : (s.setW v).n = s.n := rfl
@[simp] theorem State.setW_cmds (v : Words) : (s.setW v).cmds = s.cmds := rfl
@[simp] theorem State.setW_out (v : Words) : (s.setW v).out = s.out := rfl
@[simp] theorem State.setW_faults (v : Words) : (s.setW v).faults = s.faults := rfl
@[simp] theorem State.setW_permCalls (v : Words) : (s.setW v).permCalls = s.permCalls := rfl

@[simp] theorem State.setQ_w (v : List Byte) : (s.setQ v).w = s.w := rfl
@[simp] theorem State.setQ_q (v : List Byte) : (s.setQ v).q = v := rfl
@[simp] theorem State.setQ_c (v : List Byte) : (s.setQ v).c = s.c := rfl
@[simp] theorem State.setQ_cfg (v : List Byte) : (s.setQ v).cfg = s.cfg := rfl
@[simp] theorem State.setQ_provider (v : List Byte) : (s.setQ v).provider = s.provider := rfl
@[simp] theorem State.setQ_status (v : List Byte) : (s.setQ v).status = s.status := rfl
@[simp] theorem State.setQ_errcmd (v : List Byte) : (s.setQ v).errcmd = s.errcmd := rfl
@[simp] theorem State.setQ_n (v : List Byte) : (s.setQ v).n = s.n := rfl
@[simp] theorem State.setQ_cmds (v : List Byte) : (s.setQ v).cmds = s.cmds := rfl
@[simp] theorem State.setQ_out (v : List Byte) : (s.setQ v).out = s.out := rfl
@[simp] theorem State.setQ_faults (v : List Byte) : (s.setQ v).faults = s.faults := rfl
@[simp] theorem State.setQ_permCalls (v : List Byte) : (s.setQ v).permCalls = s.permCalls := rfl

@[simp] theorem State.setC_w (v : Nat) : (s.setC v).w = s.w := rfl
@[simp] theorem State.setC_q (v : Nat) : (s.setC v).q = s.q := rfl
@[simp] theorem State.setC_c (v : Nat) : (s.setC v).c = v := rfl
@[simp] theorem State.setC_cfg (v : Nat) : (s.setC v).cfg = s.cfg := rfl
@[simp] theorem State.setC_provider (v : Nat) : (s.setC v).provider = s.provider := rfl
@[simp] theorem State.setC_status (v : Nat) : (s.setC v).status = s.status := rfl
@[simp] theorem State.setC_errcmd (v : Nat) : (s.setC v).errcmd = s.errcmd := rfl
@[simp] theorem State.setC_n (v : Nat) : (s.setC v).n = s.n := rfl
@[simp] theorem State.setC_cmds (v : Nat) : (s.setC v).cmds = s.cmds := rfl
@[simp] theorem State.setC_out (v : Nat) : (s.setC v).out = s.out := rfl
@[simp] theorem State.setC_faults (v : Nat) : (s.setC v).faults = s.faults := rfl
@[simp] theorem State.setC_permCalls (v : Nat) : (s.setC v).permCalls = s.permCalls := rfl

@[simp] theorem State.setRecord_w (st : BitVec 32) (e : BitVec 64) : (s.setRecord st e).w = s.w := rfl
@[simp] theorem State.setRecord_q (st : BitVec 32) (e : BitVec 64) : (s.setRecord st e).q = s.q := rfl
@[simp] theorem State.setRecord_c (st : BitVec 32) (e : BitVec 64) : (s.setRecord st e).c = s.c := rfl
@[simp] theorem State.setRecord_cfg (st : BitVec 32) (e : BitVec 64) : (s.setRecord st e).cfg = s.cfg := rfl
@[simp] theorem State.setRecord_provider (st : BitVec 32) (e : BitVec 64) : (s.setRecord st e).provider = s.provider := rfl
@[simp] theorem State.setRecord_status (st : BitVec 32) (e : BitVec 64) : (s.setRecord st e).status = st := rfl
@[simp] theorem State.setRecord_errcmd (st : BitVec 32) (e : BitVec 64) : (s.setRecord st e).errcmd = e := rfl
@[simp] theorem State.setRecord_n (st : BitVec 32) (e : BitVec 64) : (s.setRecord st e).n = s.n := rfl
@[simp] theorem State.setRecord_cmds (st : BitVec 32) (e : BitVec 64) : (s.setRecord st e).cmds = s.cmds := rfl
@[simp] theorem State.setRecord_out (st : BitVec 32) (e : BitVec 64) : (s.setRecord st e).out = s.out := rfl
@[simp] theorem State.setRecord_faults (st : BitVec 32) (e : BitVec 64) : (s.setRecord st e).faults = s.faults := rfl
@[simp] theorem State.setRecord_permCalls (st : BitVec 32) (e : BitVec 64) : (s.setRecord st e).permCalls = s.permCalls := rfl

@[simp] theorem State.emit_w (bytes : List Byte) : (s.emit bytes).w = s.w := rfl
@[simp] theorem State.emit_q (bytes : List Byte) : (s.emit bytes).q = s.q := rfl
@[simp] theorem State.emit_c (bytes : List Byte) : (s.emit bytes).c = s.c := rfl
@[simp] theorem State.emit_cfg (bytes : List Byte) : (s.emit bytes).cfg = s.cfg := rfl
@[simp] theorem State.emit_provider (bytes : List Byte) : (s.emit bytes).provider = s.provider := rfl
@[simp] theorem State.emit_status (bytes : List Byte) : (s.emit bytes).status = s.status := rfl
@[simp] theorem State.emit_errcmd (bytes : List Byte) : (s.emit bytes).errcmd = s.errcmd := rfl
@[simp] theorem State.emit_n (bytes : List Byte) : (s.emit bytes).n = s.n := rfl
@[simp] theorem State.emit_cmds (bytes : List Byte) : (s.emit bytes).cmds = s.cmds := rfl
@[simp] theorem State.emit_out (bytes : List Byte) : (s.emit bytes).out = s.out ++ [bytes] := rfl
@[simp] theorem State.emit_faults (bytes : List Byte) : (s.emit bytes).faults = s.faults := rfl
@[simp] theorem State.emit_permCalls (bytes : List Byte) : (s.emit bytes).permCalls = s.permCalls := rfl

@[simp] theorem State.addFault_w (f : Fault) : (s.addFault f).w = s.w := rfl
@[simp] theorem State.addFault_q (f : Fault) : (s.addFault f).q = s.q := rfl
@[simp] theorem State.addFault_c (f : Fault) : (s.addFault f).c = s.c := rfl
@[simp] theorem State.addFault_cfg (f : Fault) : (s.addFault f).cfg = s.cfg := rfl
@[simp] theorem State.addFault_provider (f : Fault) : (s.addFault f).provider = s.provider := rfl
@[simp] theorem State.addFault_status (f : Fault) : (s.addFault f).status = s.status := rfl
@[simp] theorem State.addFault_errcmd (f : Fault) : (s.addFault f).errcmd = s.errcmd := rfl
@[simp] theorem State.addFault_n (f : Fault) : (s.addFault f).n = s.n := rfl
@[simp] theorem State.addFault_cmds (f : Fault) : (s.addFault f).cmds = s.cmds := rfl
@[simp] theorem State.addFault_out (f : Fault) : (s.addFault f).out = s.out := rfl
@[simp] theorem State.addFault_faults (f : Fault) : (s.addFault f).faults = s.faults ++ [f] := rfl
@[simp] theorem State.addFault_permCalls (f : Fault) : (s.addFault f).permCalls = s.permCalls := rfl

@[simp] theorem State.countPerm_w (k : Nat) : (s.countPerm k).w = s.w := rfl
@[simp] theorem State.countPerm_q (k : Nat) : (s.countPerm k).q = s.q := rfl
@[simp] theorem State.countPerm_c (k : Nat) : (s.countPerm k).c = s.c := rfl
@[simp] theorem State.countPerm_cfg (k : Nat) : (s.countPerm k).cfg = s.cfg := rfl
@[simp] theorem State.countPerm_provider (k : Nat) : (s.countPerm k).provider = s.provider := rfl
@[simp] theorem State.countPerm_status (k : Nat) : (s.countPerm k).status = s.status := rfl
@[simp] theorem State.countPerm_errcmd (k : Nat) : (s.countPerm k).errcmd = s.errcmd := rfl
@[simp] theorem State.countPerm_n (k : Nat) : (s.countPerm k).n = s.n := rfl
@[simp] theorem State.countPerm_cmds (k : Nat) : (s.countPerm k).cmds = s.cmds := rfl
@[simp] theorem State.countPerm_out (k : Nat) : (s.countPerm k).out = s.out := rfl
@[simp] theorem State.countPerm_faults (k : Nat) : (s.countPerm k).faults = s.faults := rfl
@[simp] theorem State.countPerm_permCalls (k : Nat) : (s.countPerm k).permCalls = s.permCalls + k := rfl

@[simp] theorem State.accept_w (rest : List Command) : (s.accept rest).w = s.w := rfl
@[simp] theorem State.accept_q (rest : List Command) : (s.accept rest).q = s.q := rfl
@[simp] theorem State.accept_c (rest : List Command) : (s.accept rest).c = s.c := rfl
@[simp] theorem State.accept_cfg (rest : List Command) : (s.accept rest).cfg = s.cfg := rfl
@[simp] theorem State.accept_provider (rest : List Command) : (s.accept rest).provider = s.provider := rfl
@[simp] theorem State.accept_status (rest : List Command) : (s.accept rest).status = s.status := rfl
@[simp] theorem State.accept_errcmd (rest : List Command) : (s.accept rest).errcmd = s.errcmd := rfl
@[simp] theorem State.accept_n (rest : List Command) : (s.accept rest).n = s.n + 1 := rfl
@[simp] theorem State.accept_cmds (rest : List Command) : (s.accept rest).cmds = rest := rfl
@[simp] theorem State.accept_out (rest : List Command) : (s.accept rest).out = s.out := rfl
@[simp] theorem State.accept_faults (rest : List Command) : (s.accept rest).faults = s.faults := rfl
@[simp] theorem State.accept_permCalls (rest : List Command) : (s.accept rest).permCalls = s.permCalls := rfl

/-- The permutation a state calls depends on its provider and its round count alone (40_packing R76). -/
theorem State.perm_congr {s t : State} (hp : s.provider = t.provider) (hc : s.cfg = t.cfg) : s.perm = t.perm := by
  funext w
  simp [State.perm, hp, hc]

end Sys2Proof.Machine
end

