-- ==== Sys2Proof/Laws/Ops.lean ====
section
/-! SUPPORT. What each shared operation can do, said once: the operations as whole-state equations, and the lengths they
keep. -/

namespace Sys2Proof.Machine

/-- BLOCK_COMPLETE writes `W` and `C` and makes one permutation call (41_absorb R82). -/
theorem blockComplete_eq (s : State) :
    blockComplete s = { s with w := s.perm (pack s.q s.w), c := 0, permCalls := s.permCalls + 1 } := rfl

/-- ABSORB below the last queue byte (41_absorb R81). -/
theorem absorbByte_below {s : State} (b : Byte) (h : s.c + 1 ≠ rate s.cfg) :
    absorbByte b s = { s with q := s.q.set s.c b, c := s.c + 1 } := by
  simp [absorbByte, h, State.setQ, State.setC]

/-- ABSORB at the last queue byte (41_absorb R81, R82). -/
theorem absorbByte_last {s : State} (b : Byte) (h : s.c + 1 = rate s.cfg) :
    absorbByte b s =
      { s with q := s.q.set s.c b, w := s.perm (pack (s.q.set s.c b) s.w), c := 0, permCalls := s.permCalls + 1 } := by
  simp only [absorbByte, h, if_true]
  rfl

/-- SQUEEZE appends to `OUT` and counts its permutation calls (42_squeeze R100). -/
theorem squeezeOp_eq (L : Nat) (p : Byte) (s : State) :
    squeezeOp L p s =
      { s with out := s.out ++ [(squeezed L p s).bytes], permCalls := s.permCalls + (squeezed L p s).calls } := rfl

/-- RESET writes `W`, `Q` and `C` (43_reset R105, R108). -/
theorem zeroSponge_eq (s : State) :
    zeroSponge s = { s with w := Vector.replicate 50 0#32, q := List.replicate (rate s.cfg) 0#8, c := 0 } := rfl

/-- A rejection writes the error record and the list of faults (60_exceptions R110, R111). -/
theorem rejectCommand_eq (n : Nat) (cw : Command) (k : Cause) (s : State) :
    rejectCommand n cw k s =
      { s with status := statusReject k s.status, errcmd := errcmdReject cw s.status s.errcmd,
               faults := s.faults ++ [.commandError n k] } := rfl

/-- What a whole queue block is once its last byte is written: the queued bytes and that byte (41_absorb R82). -/
theorem set_last_eq {q : List Byte} {c : Nat} (b : Byte) (h : c + 1 = q.length) : q.set c b = q.take c ++ [b] := by
  rw [List.set_eq_take_append_cons_drop, if_pos (by omega), List.drop_of_length_le (by omega)]

theorem take_set_below {q : List Byte} {c : Nat} (b : Byte) (h : c < q.length) :
    (q.set c b).take (c + 1) = q.take c ++ [b] := by
  apply List.ext_getElem
  · simp; omega
  · intro i h1 h2
    simp at h1
    simp only [List.getElem_take, List.getElem_set, List.getElem_append, List.length_take, Nat.min_eq_left (by omega : c ≤ q.length)]
    by_cases hi : c = i
    · simp [hi]
    · simp [hi, show i < c by omega]

@[simp] theorem orByte_length (i : Nat) (v : Byte) (q : List Byte) : (orByte i v q).length = q.length := by
  simp [orByte]

theorem zeroFrom_length {c r : Nat} {q : List Byte} (hc : c ≤ r) (hq : c ≤ q.length) : (zeroFrom c r q).length = r := by
  simp [zeroFrom]; omega

/-- The padded snapshot has the queue's length (42_squeeze R94). -/
theorem padQueue_length {c r : Nat} (p : Byte) {q : List Byte} (hc : c ≤ r) (hq : c ≤ q.length) :
    (padQueue c r p q).length = r := by
  simp [padQueue, zeroFrom_length hc hq]

/-- The padded snapshot reads the absorbed bytes alone: the stale ones are zeroed (42_squeeze R91, 10_state R25). -/
theorem padQueue_congr (c r : Nat) (p : Byte) {q q' : List Byte} (h : q.take c = q'.take c) :
    padQueue c r p q = padQueue c r p q' := by
  simp [padQueue, zeroFrom, h]

/-- SQUEEZE's output depends on the absorbed bytes, the state words, the cursor, the configuration and the permutation
(42_squeeze R104). -/
theorem squeezed_congr (L : Nat) (p : Byte) {s t : State} (hq : s.q.take s.c = t.q.take t.c) (hc : s.c = t.c)
    (hw : s.w = t.w) (hf : s.cfg = t.cfg) (hp : s.provider = t.provider) : squeezed L p s = squeezed L p t := by
  have hq' : s.q.take t.c = t.q.take t.c := hc ▸ hq
  simp only [squeezed, snapshot, State.perm_congr hp hf, hw, hf, hc, padQueue_congr t.c (rate t.cfg) p hq']

end Sys2Proof.Machine
end

