-- ==== Sys2Proof/Laws/Packing.lean ====
section
/-! SUPPORT. The packing engine word by word and byte by byte: what PACK leaves in each word, and what each byte of the image
is (40_packing R69 to R73; 20_memory R40). -/

namespace Sys2Proof.Machine

theorem wordAt_eq {w : Words} {j : Nat} (h : j < 50) : wordAt w j = w[j] := by
  simp [wordAt, h]

theorem words_ext {w v : Words} (h : ∀ j, j < 50 → wordAt w j = wordAt v j) : w = v := by
  ext1 j hj
  have := h j hj
  rwa [wordAt_eq hj, wordAt_eq hj] at this

theorem wordAt_replicate (j : Nat) : wordAt (Vector.replicate 50 0#32) j = 0#32 := by
  by_cases h : j < 50 <;> simp [wordAt, h]

theorem wordAt_xorWord (w : Words) (i j : Nat) (v : Word) (hi : i < 50) :
    wordAt (xorWord w i v) j = if j = i then wordAt w i ^^^ v else wordAt w j := by
  by_cases h : j = i
  · subst h; simp [wordAt, xorWord, hi]
  · simp [wordAt, xorWord, h, Ne.symm h]

/-- The value PACK XORs into word `j`: bytes `8k+4..8k+7` for the even word of lane `k`, bytes `8k..8k+3` for the odd one
(40_packing R69). -/
def packWord (block : List Byte) (j : Nat) : Word :=
  let i := 8 * (j / 2) + (if j % 2 = 0 then 4 else 0)
  le32 (byteAt block i) (byteAt block (i + 1)) (byteAt block (i + 2)) (byteAt block (i + 3))

theorem wordAt_packLane (block : List Byte) (w : Words) (k j : Nat) (hk : k < 25) :
    wordAt (packLane block w k) j = if j / 2 = k then wordAt w j ^^^ packWord block j else wordAt w j := by
  simp only [packLane]
  rw [wordAt_xorWord _ _ _ _ (by omega), wordAt_xorWord _ _ _ _ (by omega), wordAt_xorWord _ _ _ _ (by omega)]
  have h4 : 8 * k / 4 = 2 * k := by omega
  rw [h4]
  by_cases h1 : j = 2 * k + 1
  · subst h1
    have : (2 * k + 1) / 2 = k := by omega
    simp [packWord, this]
  · by_cases h2 : j = 2 * k
    · subst h2
      simp [packWord]
    · have : j / 2 ≠ k := by omega
      simp [h1, h2, this]

theorem wordAt_packLanes (block : List Byte) (w : Words) (m j : Nat) (hm : m ≤ 25) :
    wordAt ((List.range m).foldl (packLane block) w) j =
      if j / 2 < m then wordAt w j ^^^ packWord block j else wordAt w j := by
  induction m with
  | zero => simp
  | succ m ih =>
    rw [List.range_succ, List.foldl_append, List.foldl_cons, List.foldl_nil, wordAt_packLane _ _ _ _ (by omega),
      ih (by omega)]
    by_cases h1 : j / 2 = m
    · simp [h1]
    · by_cases h2 : j / 2 < m
      · simp [h1, h2, Nat.lt_succ_of_lt h2]
      · simp [h1, h2, show ¬ j / 2 < m + 1 by omega]

/-- Everything PACK does to a word (40_packing R69): it XORs in the word's four bytes, and leaves words from `n/4` on. -/
theorem wordAt_pack (block : List Byte) (w : Words) (j : Nat) (hn : block.length ≤ 200) :
    wordAt (pack block w) j =
      if j / 2 < block.length / 8 then wordAt w j ^^^ packWord block j else wordAt w j :=
  wordAt_packLanes block w _ j (by omega)

@[simp] theorem laneBytes_length (w : Words) (k : Nat) : (laneBytes w k).length = 8 := rfl

theorem image_prefix_length (w : Words) (m : Nat) : ((List.range m).flatMap (laneBytes w)).length = 8 * m := by
  induction m with
  | zero => rfl
  | succ m ih => simp [List.range_succ, List.flatMap_append] at ih ⊢; omega

@[simp] theorem image_length (w : Words) : (image w).length = 200 := image_prefix_length w 25

theorem image_prefix_getElem? (w : Words) (m k j : Nat) (hk : k < m) (hj : j < 8) :
    ((List.range m).flatMap (laneBytes w))[8 * k + j]? = (laneBytes w k)[j]? := by
  induction m with
  | zero => omega
  | succ m ih =>
    rw [List.range_succ, List.flatMap_append]
    by_cases h : k = m
    · subst h
      rw [List.getElem?_append_right (by rw [image_prefix_length]; omega), image_prefix_length]
      simp
    · rw [List.getElem?_append_left (by rw [image_prefix_length]; omega)]
      exact ih (by omega)

theorem laneBytes_getElem? (w : Words) (k j : Nat) (hj : j < 8) :
    (laneBytes w k)[j]? = some (byteOf (j % 4) (wordAt w (2 * k + (if j < 4 then 1 else 0)))) := by
  have : j = 0 ∨ j = 1 ∨ j = 2 ∨ j = 3 ∨ j = 4 ∨ j = 5 ∨ j = 6 ∨ j = 7 := by omega
  rcases this with rfl | rfl | rfl | rfl | rfl | rfl | rfl | rfl <;> rfl

/-- Byte `i` of the image is byte `i mod 4` of word `widx(i)` (20_memory R40). -/
theorem image_getElem? (w : Words) (i : Nat) (hi : i < 200) :
    (image w)[i]? = some (byteOf (i % 4) (wordAt w (widx i))) := by
  have h := image_prefix_getElem? w 25 (i / 8) (i % 8) (by omega) (by omega)
  rw [show 8 * (i / 8) + i % 8 = i by omega, laneBytes_getElem? _ _ _ (by omega)] at h
  rw [image, h, widx, show i % 8 % 4 = i % 4 by omega]

@[simp] theorem unpack_length (w : Words) (n : Nat) : (unpack w n).length = min n 200 := by
  simp [unpack]

theorem unpack_getElem? (w : Words) (n i : Nat) (hi : i < n) (hn : n ≤ 200) :
    (unpack w n)[i]? = some (byteOf (i % 4) (wordAt w (widx i))) := by
  rw [unpack, List.getElem?_take_of_lt hi, image_getElem? w i (by omega)]

/-- XOR acts on each byte of a word. -/
theorem byteOf_xor (k : Nat) (u v : Word) : byteOf k (u ^^^ v) = byteOf k u ^^^ byteOf k v := by
  ext i hi
  simp [byteOf]

/-- The bytes of an assembled little-endian word (00_scope R12). -/
theorem byteOf_le32 (b0 b1 b2 b3 : Byte) :
    byteOf 0 (le32 b0 b1 b2 b3) = b0 ∧ byteOf 1 (le32 b0 b1 b2 b3) = b1 ∧
    byteOf 2 (le32 b0 b1 b2 b3) = b2 ∧ byteOf 3 (le32 b0 b1 b2 b3) = b3 := by
  refine ⟨?_, ?_, ?_, ?_⟩ <;> ext i hi <;> simp only [byteOf, le32, BitVec.getElem_extractLsb', BitVec.getLsbD_append]
  · simp [hi]
  · simp [hi, show ¬ 8 + i < 8 by omega]
  · simp [hi, show ¬ 16 + i < 8 by omega, show ¬ 16 + i - 8 < 8 by omega, show 16 + i - 8 - 8 = i by omega]
  · simp [hi, show ¬ 24 + i < 8 by omega, show ¬ 24 + i - 8 < 8 by omega, show ¬ 24 + i - 8 - 8 < 8 by omega,
      show 24 + i - 8 - 8 - 8 = i by omega]

/-- The byte of `packWord` at a byte's place is that byte of the block (40_packing R70). -/
theorem byteOf_packWord (block : List Byte) (i : Nat) :
    byteOf (i % 4) (packWord block (widx i)) = byteAt block i := by
  have hw : widx i / 2 = i / 8 := by simp only [widx]; split <;> omega
  have hm : widx i % 2 = if i % 8 < 4 then 1 else 0 := by simp only [widx]; split <;> omega
  simp only [packWord, hw, hm]
  have h4 : i % 4 = 0 ∨ i % 4 = 1 ∨ i % 4 = 2 ∨ i % 4 = 3 := by omega
  obtain ⟨e0, e1, e2, e3⟩ := byteOf_le32
    (byteAt block (8 * (i / 8) + (if (if i % 8 < 4 then 1 else 0) = 0 then 4 else 0)))
    (byteAt block (8 * (i / 8) + (if (if i % 8 < 4 then 1 else 0) = 0 then 4 else 0) + 1))
    (byteAt block (8 * (i / 8) + (if (if i % 8 < 4 then 1 else 0) = 0 then 4 else 0) + 2))
    (byteAt block (8 * (i / 8) + (if (if i % 8 < 4 then 1 else 0) = 0 then 4 else 0) + 3))
  rcases h4 with h | h | h | h <;> rw [h]
  · rw [e0]; congr 1; split <;> simp_all <;> omega
  · rw [e1]; congr 1; split <;> simp_all <;> omega
  · rw [e2]; congr 1; split <;> simp_all <;> omega
  · rw [e3]; congr 1; split <;> simp_all <;> omega

/-- Words agree when all their bytes agree. -/
theorem word_ext {u v : Word} (h : ∀ k, k < 4 → byteOf k u = byteOf k v) : u = v := by
  ext i hi
  have := congrArg (fun b : Byte => b.getLsbD (i % 8)) (h (i / 8) (by omega))
  simp only [byteOf, BitVec.getLsbD_extractLsb'] at this
  simpa [show i % 8 < 8 by omega, show 8 * (i / 8) + i % 8 = i by omega, BitVec.getLsbD_eq_getElem, hi] using this

/-- Words arrays agree when their images agree byte by byte. -/
theorem words_ext_byte {w v : Words}
    (h : ∀ i, i < 200 → byteOf (i % 4) (wordAt w (widx i)) = byteOf (i % 4) (wordAt v (widx i))) : w = v := by
  refine words_ext fun j hj => word_ext fun k hk => ?_
  have e := h (8 * (j / 2) + (if j % 2 = 0 then 4 else 0) + k) (by split <;> omega)
  rw [show (8 * (j / 2) + (if j % 2 = 0 then 4 else 0) + k) % 4 = k by split <;> omega] at e
  rwa [show widx (8 * (j / 2) + (if j % 2 = 0 then 4 else 0) + k) = j by
    simp only [widx]; split <;> split <;> omega] at e

end Sys2Proof.Machine
end

