-- ==== Sys2Proof/Laws/PerInstr.lean ====
section
/-! SUPPORT. Facts about every command as syntax, one lemma per constructor: its operands fit their fields, its row stands in
the opcode map, and its word carries the row's opcode (30_encoding R54, R58, R67). -/

namespace Sys2Proof.Laws.Fields

/-- A command is well-formed, its row is one of the map, and its word carries the row's opcode. -/
def Statement (i : Instr) : Prop := i.wf = true ∧ i.row ∈ opcodeMap ∧ opcode (encode i) = opcode i.row.pattern

theorem absorb (b : Byte) : Statement (.absorb b) := by
  have := b.isLt
  refine ⟨by simpa [Instr.wf, isByte] using this, by simp [opcodeMap, Instr.row], ?_⟩
  rw [opcode, field_eq_iff, encode_absorb_toNat,
    show (opcode (Instr.absorb b).row.pattern).toNat = 1 from (by decide : (opcode 0x0100000000000000#64).toNat = 1)]
  omega

theorem squeeze (len : BitVec 32) : Statement (.squeeze len) := by
  have := len.isLt
  refine ⟨by simpa [Instr.wf, isLen] using this, by simp [opcodeMap, Instr.row], ?_⟩
  rw [opcode, field_eq_iff, encode_squeeze_toNat,
    show (opcode (Instr.squeeze len).row.pattern).toNat = 2 from (by decide : (opcode 0x0200000000000000#64).toNat = 2)]
  omega

theorem squeezePad (padv : Byte) (len : BitVec 32) : Statement (.squeezePad padv len) := by
  have := len.isLt
  have := padv.isLt
  refine ⟨by simp only [Instr.wf, isByte, isLen, Bool.and_eq_true, decide_eq_true_eq]; omega,
    by simp [opcodeMap, Instr.row], ?_⟩
  rw [opcode, field_eq_iff, encode_squeezePad_toNat,
    show (opcode (Instr.squeezePad padv len).row.pattern).toNat = 2 from (by decide : (opcode 0x0240000000000000#64).toNat = 2)]
  omega

theorem squeezeDef : Statement .squeezeDef := ⟨rfl, by simp [opcodeMap, Instr.row], by decide⟩

theorem squeezeDefPad (padv : Byte) : Statement (.squeezeDefPad padv) := by
  have := padv.isLt
  refine ⟨by simpa [Instr.wf, isByte] using this, by simp [opcodeMap, Instr.row], ?_⟩
  rw [opcode, field_eq_iff, encode_squeezeDefPad_toNat,
    show (opcode (Instr.squeezeDefPad padv).row.pattern).toNat = 2 from (by decide : (opcode 0x02C0000000000000#64).toNat = 2)]
  omega

theorem reset : Statement .reset := ⟨rfl, by simp [opcodeMap, Instr.row], by decide⟩

end Sys2Proof.Laws.Fields
end

