-- ==== Sys2Proof/Laws/Squeeze.lean ====
section
/-! SUPPORT. The output loop of SQUEEZE, by induction on its passes: how many bytes, how many permutation calls, and which
byte stands where (42_squeeze R95, R96). -/

namespace Sys2Proof.Machine

theorem spanWords_shift (P : Words → Words) (w : Words) (k : Nat) : spanWords P (P w) k = spanWords P w (k + 1) := by
  induction k with
  | zero => rfl
  | succ k ih => rw [spanWords, ih]; rfl

theorem imageByte_eq (w : Words) (i : Nat) : imageByte w i = byteOf (i % 4) (wordAt w (widx i)) := rfl

/-- The loop from offset `off` emits the `L - off` bytes still asked for (42_squeeze R95). -/
theorem squeezeLoop_length (P : Words → Words) {r L : Nat} (hr : 0 < r) (hr' : r ≤ 200) (fuel : Nat) (w : Words)
    (off : Nat) (hf : L - off ≤ fuel) : (squeezeLoop P r L fuel w off).bytes.length = L - off := by
  induction fuel generalizing w off with
  | zero => simp [squeezeLoop]; omega
  | succ fuel ih =>
    unfold squeezeLoop
    split
    · rename_i h
      simp only [List.length_append, List.length_take, unpack_length]
      rw [ih _ _ (by omega)]
      omega
    · simp; omega

/-- It makes one permutation call per span (42_squeeze R95, 70_reset R138). -/
theorem squeezeLoop_calls (P : Words → Words) {r L : Nat} (hr : 0 < r) (fuel : Nat) (w : Words)
    (off : Nat) (hf : L - off ≤ fuel) : (squeezeLoop P r L fuel w off).calls = spans r (L - off) := by
  induction fuel generalizing w off with
  | zero =>
    rw [show L - off = 0 by omega]
    simp only [squeezeLoop, spans]
    exact (Nat.div_eq_of_lt (by omega)).symm
  | succ fuel ih =>
    unfold squeezeLoop
    split
    · rename_i h
      simp only
      rw [ih _ _ (by omega), spans, spans]
      by_cases hm : r ≤ L - off
      · rw [show min r (L - off) = r by omega, show L - off + r - 1 = (L - (off + r) + r - 1) + r by omega,
          Nat.add_div_right _ hr]
      · rw [show L - (off + min r (L - off)) + r - 1 = r - 1 by omega, Nat.div_eq_of_lt (by omega : r - 1 < r),
          show L - off + r - 1 = (L - off - 1) + r by omega, Nat.add_div_right _ hr,
          Nat.div_eq_of_lt (by omega)]
    · rw [show L - off = 0 by omega, spans]
      exact (Nat.div_eq_of_lt (by omega)).symm

/-- Byte `i` of what it emits is byte `i mod RATE` of the image of the words of span `i div RATE` (42_squeeze R95). -/
theorem squeezeLoop_getElem? (P : Words → Words) {r L : Nat} (hr : 0 < r) (hr' : r ≤ 200) (fuel : Nat) (w : Words)
    (off i : Nat) (hf : L - off ≤ fuel) (hi : i < L - off) :
    (squeezeLoop P r L fuel w off).bytes[i]? = some (imageByte (spanWords P w (i / r)) (i % r)) := by
  induction fuel generalizing w off i with
  | zero => omega
  | succ fuel ih =>
    unfold squeezeLoop
    rw [if_pos (by omega)]
    simp only
    by_cases hm : i < min r (L - off)
    · rw [List.getElem?_append_left (by simp; omega), List.getElem?_take_of_lt hm,
        unpack_getElem? _ _ _ (by omega) hr', Nat.div_eq_of_lt (by omega : i < r), Nat.mod_eq_of_lt (by omega : i < r)]
      rfl
    · have hlen : ((unpack (P w) r).take (min r (L - off))).length = r := by simp; omega
      rw [List.getElem?_append_right (by omega), hlen, ih _ _ _ (by omega) (by omega), spanWords_shift]
      have hdiv : i / r = (i - r) / r + 1 := by
        rw [← Nat.add_div_right _ hr]; congr 1; omega
      have hmod : (i - r) % r = i % r := by rw [← Nat.mod_eq_sub_mod (by omega)]
      rw [hdiv, hmod]

end Sys2Proof.Machine
end

