-- ==== Sys2Proof/Laws/Step.lean ====
section
/-! SUPPORT. What a step can do, said once: it waits, it runs a decoded command, or it records a rejection
(10_state R33, 60_exceptions R111). -/

namespace Sys2Proof.Machine

/-- The port takes the head of the stream. -/
theorem takeCommand_cases (s : State) :
    (s.cmds = [] ∧ takeCommand s = none) ∨
    (∃ cw rest, s.cmds = cw :: rest ∧ takeCommand s = some (cw, s.accept rest)) := by
  unfold takeCommand
  cases s.cmds with
  | nil => exact .inl ⟨rfl, rfl⟩
  | cons cw rest => exact .inr ⟨cw, rest, rfl, rfl⟩

/-- What a command can do to a state, whichever it is: absorb a byte, append output, or zero the sponge. -/
theorem exec_cases (i : Instr) (s : State) :
    (∃ b, i = .absorb b ∧ exec i s = .next (absorbByte b s)) ∨
    (∃ L p, exec i s = .next (squeezeOp L p s) ∧ i ≠ .reset ∧ ∀ b, i ≠ .absorb b) ∨
    (i = .reset ∧ exec i s = .next (zeroSponge s)) := by
  cases i with
  | absorb b => exact .inl ⟨b, rfl, rfl⟩
  | squeeze len => exact .inr (.inl ⟨lenField len, padDefault s, rfl, by simp, by simp⟩)
  | squeezePad padv len => exact .inr (.inl ⟨lenField len, padOverride padv, rfl, by simp, by simp⟩)
  | squeezeDef => exact .inr (.inl ⟨lenDefault s, padDefault s, rfl, by simp, by simp⟩)
  | squeezeDefPad padv => exact .inr (.inl ⟨lenDefault s, padOverride padv, rfl, by simp, by simp⟩)
  | reset => exact .inr (.inr ⟨rfl, rfl⟩)

/-- The whole of a step. -/
theorem step_cases (s : State) :
    (s.cmds = [] ∧ step s = .next s) ∨
    (∃ cw rest i, s.cmds = cw :: rest ∧ decode cw = .command i ∧ step s = exec i (s.accept rest)) ∨
    (∃ cw rest k, s.cmds = cw :: rest ∧ decode cw = .reject k ∧
      step s = .next (rejectCommand s.n cw k (s.accept rest))) := by
  rcases takeCommand_cases s with ⟨hc, ht⟩ | ⟨cw, rest, hc, ht⟩
  · exact .inl ⟨hc, by simp only [step, ht]⟩
  · cases hd : decode cw with
    | command i => exact .inr (.inl ⟨cw, rest, i, hc, hd, by simp only [step, ht, hd]⟩)
    | reject k => exact .inr (.inr ⟨cw, rest, k, hc, hd, by simp only [step, ht, hd]⟩)

end Sys2Proof.Machine
end

