-- ==== Sys2Proof/Laws/Stream.lean ====
section
/-! SUPPORT. Runs step by step and command by command (70_reset R140). -/

namespace Sys2Proof.Machine

/-- A run of any machine whose first step answers `t` goes on from `t`. -/
theorem core_run_succ (M : Host.Core) (k : Nat) {s t : M.State} (h : M.step s = .next t) :
    M.run (k + 1) s = M.run k t := by
  simp only [Host.Core.run, h]

/-- A run of KSW whose first step answers `t` goes on from `t`. -/
theorem run_succ {s t : State} (k : Nat) (h : step s = .next t) :
    Host.Core.run Sys2Proof.core (k + 1) s = Host.Core.run Sys2Proof.core k t :=
  core_run_succ Sys2Proof.core k h

/-- A sequence whose first command answers `t` goes on from `t`. -/
theorem execAll_cons {i : Instr} {s t : State} (is : List Instr) (h : exec i s = .next t) :
    execAll (i :: is) s = execAll is t := by
  simp only [execAll, h]

/-- A sequence in two parts: the second runs from where the first ends. -/
theorem execAll_append {a : List Instr} (b : List Instr) {s t : State} (h : execAll a s = .next t) :
    execAll (a ++ b) s = execAll b t := by
  induction a generalizing s with
  | nil => cases h; rfl
  | cons i a ih =>
    cases e : exec i s with
    | next s' => rw [execAll_cons a e] at h; rw [List.cons_append, execAll_cons _ e]; exact ih h
    | fault r => simp only [execAll, e] at h; cases h
    | refused r => simp only [execAll, e] at h; cases h

end Sys2Proof.Machine
end

