-- ==== Sys2Proof/Tests/Slice0.lean ====
section
/-! SUPPORT. Tests. Expected values are the spec's own: its opcode tables (30_encoding), its worked vectors
(95_test_vectors V<n>) and hand calculation from its rules, under `Perm_I` unless a test says otherwise. The last section
holds, for each statement with hypotheses, a state and operands that meet them. -/

namespace Sys2Proof.Tests

open Sys2Proof Sys2Proof.Machine

/-- A small instance: `CAPACITY = 768`, so `RATE = 8` and `DEFLEN = 96`; `PADDING = 0x06`, 24 rounds, `Perm_I`. -/
def small (q : List Byte) (c : Nat) : State := { State.fresh ⟨768#16, 0x06#8, 24#8⟩ .identity with q := q, c := c }

/-- A small instance with a command stream. -/
def sent (cws : List Command) : State := { small [0, 0, 0, 0, 0, 0, 0, 0] 0 with cmds := cws }

/-- A field of the next state an outcome holds, if it holds one. -/
def after {α : Type} (o : Host.Outcome State Fault Refusal) (f : State → α) : Option α :=
  match o with
  | .next s => some (f s)
  | .fault _ => none
  | .refused _ => none

/-! ## Well-formedness: each check refuses an operand that does not fit (30_encoding R65, R66) -/

theorem test_wf_byte : isByte 255 = true ∧ isByte 256 = false := by decide
theorem test_wf_len : isLen (2 ^ 32 - 1) = true ∧ isLen (2 ^ 32) = false := by decide
theorem test_wf_text : isText ' ' = true ∧ isText '~' = true ∧ isText '\t' = false ∧ isText '\x7f' = false := by decide
theorem test_wf_refused_by_assembler :
    assemble (.absorb 256) = none ∧ assemble (.squeeze (2 ^ 32) none) = none ∧ assemble (.squeeze 1 (some 256)) = none ∧
    assemble (.squeezeDef (some 256)) = none ∧ assemble (.absorbSeq [1, 256]) = none ∧
    assemble (.absorbStr ['a', '\t']) = none := by decide

/-- 00_scope R7, 70_reset R127: each part of `legal` refuses a configuration. -/
theorem test_legal :
    legal 0 0 0 = true ∧ legal 768 255 255 = true ∧ legal 48 0 0 = false ∧ legal (-32) 0 0 = false ∧
    legal 800 0 0 = false ∧ legal 256 (-1) 0 = false ∧ legal 256 256 0 = false ∧ legal 256 0 (-1) = false ∧
    legal 256 0 256 = false := by decide

/-! ## Decoding: words written out bit by bit from the formats of 30_encoding R54 to R57 -/

/-- Format A: opcode 0000_0001, 48 zero bits, DATA 0110_0001. -/
theorem test_decode_absorb :
    decode (0b00000001#8 ++ 0#48 ++ 0b01100001#8) = .command (.absorb 0x61) := by decide

/-- Format S, DEF 0, POV 0: opcode, 0, 0, six zeros, PADV zero, eight zeros, LEN 20. -/
theorem test_decode_squeeze :
    decode (0b00000010#8 ++ 0b0#1 ++ 0b0#1 ++ 0b000000#6 ++ 0b00000000#8 ++ 0b00000000#8 ++ 20#32) =
      .command (.squeeze 20) := by decide

/-- Format S, DEF 0, POV 1: PADV 0001_1111 in bits 47:40. -/
theorem test_decode_squeezePad :
    decode (0b00000010#8 ++ 0b0#1 ++ 0b1#1 ++ 0b000000#6 ++ 0b00011111#8 ++ 0b00000000#8 ++ 20#32) =
      .command (.squeezePad 0x1F 20) := by decide

/-- Format S, DEF 1, POV 0. -/
theorem test_decode_squeezeDef :
    decode (0b00000010#8 ++ 0b1#1 ++ 0b0#1 ++ 0b000000#6 ++ 0b00000000#8 ++ 0b00000000#8 ++ 0#32) =
      .command .squeezeDef := by decide

/-- Format S, DEF 1, POV 1. -/
theorem test_decode_squeezeDefPad :
    decode (0b00000010#8 ++ 0b1#1 ++ 0b1#1 ++ 0b000000#6 ++ 0b00011111#8 ++ 0b00000000#8 ++ 0#32) =
      .command (.squeezeDefPad 0x1F) := by decide

/-- Format R: opcode 0000_0011 and 56 zero bits. -/
theorem test_decode_reset : decode (0b00000011#8 ++ 0#56) = .command .reset := by decide

/-- V30, the rejected words, and the edges of the illegal opcodes. -/
theorem test_decode_rejects :
    [0x0000000000000000, 0x0400000000000000, 0xFF00000000000000, 0x07FFFFFFFFFFFFFF].map decode =
      List.replicate 4 (.reject .illegalOpcode) ∧
    [0x0100000000000161, 0x0180000000000000, 0x0280000000000001, 0x02001F0000000008, 0x0201000000000000,
      0x0220000000000000, 0x0200000100000000, 0x0200008000000000, 0x0300000000000001, 0x0380000000000000].map decode =
      List.replicate 10 (.reject .reservedField) := by decide

/-- 30_encoding R65, R68: the words of the listing and of the other forms. -/
theorem test_encode :
    [Instr.absorb 0x61, .squeezeDef, .squeezePad 0x1F 20, .reset, .squeeze 20, .squeezeDefPad 0x1F].map encode =
      [0x0100000000000061, 0x0280000000000000, 0x02401F0000000014, 0x0300000000000000, 0x0200000000000014,
       0x02C01F0000000000] := by decide

/-- The table's own numbering: bit 0 is the word's least significant bit. -/
theorem test_decodeTableWord :
    decodeTableWord 64 0x0100000000000061 = some (.absorb 0x61) ∧ decodeTableWord 64 0x0240000000000000 = some (.squeezePad 0 0) ∧
    decodeTableWord 64 0x0400000000000000 = none := by decide

/-- 20_memory R42: bits [7:0] first, bits [63:56] last. -/
theorem test_transport :
    transportBytes 0x02401F0000000014 = [0x14, 0x00, 0x00, 0x00, 0x00, 0x1F, 0x40, 0x02] ∧
    commandsOfBytes [0x61, 0, 0, 0, 0, 0, 0, 1, 0xAA] = ([0x0100000000000061], [0xAA]) := by decide

/-- 30_encoding R65, R66: lines read, and refused ones. -/
theorem test_parse :
    parseLine ['a', 'b', 's', 'o', 'r', 'b', ' ', '0', 'x', '6', '1'] = some (.absorb 0x61) ∧
    parseLine ['s', 'q', 'u', 'e', 'e', 'z', 'e', ' ', '2', '0', ',', ' ', 'p', 'a', 'd', '=', '0', 'x', '1', 'F'] =
      some (.squeeze 20 (some 0x1F)) ∧
    parseLine ['s', 'q', 'u', 'e', 'e', 'z', 'e', ' ', 'd', 'e', 'f'] = some (.squeezeDef none) ∧
    parseLine ['a', 'b', 's', 'o', 'r', 'b', '.', 's', 't', 'r', ' ', '"', 'a', '\\', '"', '"'] = some (.absorbStr ['a', '"']) ∧
    parseLine ['s', 'q', 'u', 'e', 'e', 'z', 'e', ' ', '1', 'F'] = none ∧
    parseLine ['r', 'e', 's', 'e', 't', ' ', '1'] = none := by decide

/-- 30_encoding R68, line 2 of the example listing. -/
theorem test_listing :
    listing 2 (.squeezePad 0x1F 20) =
      ['2', ':', ' ', '0', '2', '4', '0', '1', 'F', '0', '0', '0', '0', '0', '0', '0', '0', '1', '4', ' ', ' ',
       's', 'q', 'u', 'e', 'e', 'z', 'e', ' ', '2', '0', ',', ' ', 'p', 'a', 'd', '=', '0', 'x', '1', 'F'] := by decide

/-! ## The packing engine -/

/-- V8: PACK(00 01 ... 0F, zeros). -/
theorem test_pack :
    let w := pack [0, 1, 2, 3, 4, 5, 6, 7, 8, 9, 10, 11, 12, 13, 14, 15] (Vector.replicate 50 0)
    [wordAt w 0, wordAt w 1, wordAt w 2, wordAt w 3, wordAt w 4] =
      [0x07060504, 0x03020100, 0x0F0E0D0C, 0x0B0A0908, 0] := by decide

/-- V9: the last words of a full block of 200 bytes, and the round trip. -/
theorem test_pack_full :
    let block := (List.range 200).map (BitVec.ofNat 8)
    let w := pack block (Vector.replicate 50 0)
    wordAt w 48 = 0xC7C6C5C4 ∧ wordAt w 49 = 0xC3C2C1C0 ∧ unpack w 200 = block := by decide +kernel

/-- V11, V12: UNPACK of 8, 5 and 0 bytes. -/
theorem test_unpack :
    let w := ((Vector.replicate 50 0 : Words).set 0 0x11223344).set 1 0x55667788
    unpack w 8 = [0x88, 0x77, 0x66, 0x55, 0x44, 0x33, 0x22, 0x11] ∧ unpack w 5 = [0x88, 0x77, 0x66, 0x55, 0x44] ∧
    unpack w 0 = [] := by decide

/-- 40_packing R79, G7: `Perm_K(24, zeros)` has `w[0] = 0xF1258F79` and `w[1] = 0x40E1DDE7`. -/
theorem test_permK_zeros :
    let w := permK 24 (Vector.replicate 50 0)
    wordAt w 0 = 0xF1258F79 ∧ wordAt w 1 = 0x40E1DDE7 := by decide +kernel

/-! ## One command on a small state -/

/-- V14: the byte goes to the cursor, the cursor moves on, `W` stays. -/
theorem test_absorb :
    after (exec (.absorb 0x61) (State.fresh ⟨256#16, 0x06#8, 24#8⟩ .identity))
      (fun t => (t.q.take 2, t.c, wordAt t.w 1, t.permCalls)) = some ([0x61, 0x00], 1, 0, 0) := by decide

/-- V13: the eighth byte completes the block; the queue bytes stay; one permutation call. -/
theorem test_absorb_completes :
    after (exec (.absorb 8) (small [1, 2, 3, 4, 5, 6, 7, 0] 7))
      (fun t => ([wordAt t.w 0, wordAt t.w 1, wordAt t.w 2], t.c, t.q, t.permCalls)) =
      some ([0x08070605, 0x04030201, 0], 0, [1, 2, 3, 4, 5, 6, 7, 8], 1) := by decide

/-- V3: padding byte and 0x80 combine in one byte. -/
theorem test_squeeze_last_byte :
    after (exec (.squeeze 8) (small [1, 2, 3, 4, 5, 6, 7, 0] 7)) (fun t => t.out) =
      some [[1, 2, 3, 4, 5, 6, 7, 0x86]] := by decide

/-- V7: stale bytes (here 0xFF) play no part; cursor and queue stay. -/
theorem test_squeeze_stale :
    after (exec (.squeeze 8) (small [1, 0xFF, 0xFF, 0xFF, 0xFF, 0xFF, 0xFF, 0xFF] 1)) (fun t => (t.out, t.c, t.q.take 1)) =
      some ([[1, 6, 0, 0, 0, 0, 0, 0x80]], 1, [1]) := by decide

/-- V18: an override of 0x00 is a real one. -/
theorem test_squeezePad_zero :
    after (exec (.squeezePad 0x00 8) (small [1, 0, 0, 0, 0, 0, 0, 0] 1)) (fun t => t.out) =
      some [[1, 0, 0, 0, 0, 0, 0, 0x80]] := by decide

/-- P2, line 9: 20 bytes in three spans, the last one of 4, over a mixed block and stale queue bytes. -/
theorem test_squeezePad_spans :
    after (exec (.squeezePad 0x1F 20)
        { small [9, 2, 3, 4, 5, 6, 7, 8] 1 with
          w := ((Vector.replicate 50 0 : Words).set 0 0x08070605).set 1 0x04030201, permCalls := 1 })
      (fun t => (t.out, t.permCalls)) =
      some ([[0x08, 0x1D, 3, 4, 5, 6, 7, 0x88] ++ [0x08, 0x1D, 3, 4, 5, 6, 7, 0x88] ++ [0x08, 0x1D, 3, 4]], 4) := by decide

/-- V16: `DEFLEN = 96` bytes in twelve spans. -/
theorem test_squeezeDef :
    after (exec .squeezeDef (small [0, 0, 0, 0, 0, 0, 0, 0] 0)) (fun t => (t.out, t.permCalls)) =
      some ([(List.replicate 12 [6, 0, 0, 0, 0, 0, 0, 0x80]).flatten], 12) := by decide

/-- V1, under `Perm_K`: SHA3-256 of the empty message. -/
theorem test_squeezeDef_sha3 :
    after (exec .squeezeDef (State.fresh ⟨256#16, 0x06#8, 24#8⟩ .keccak)) (fun t => t.out) =
      some [[0xa7, 0xff, 0xc6, 0xf8, 0xbf, 0x1e, 0xd7, 0x66, 0x51, 0xc1, 0x47, 0x56, 0xa0, 0x61, 0xd6, 0x62] ++
        [0xf5, 0x80, 0xff, 0x4d, 0xe4, 0x3b, 0x49, 0xfa, 0x82, 0xd8, 0x0a, 0x4b, 0x80, 0xf8, 0x43, 0x4a]] := by
  decide +kernel

/-- V19: with `CAPACITY = 0` the default length is 0: no byte, no permutation call. -/
theorem test_squeezeDef_empty :
    after (exec (.squeezeDefPad 0x1F) (State.fresh ⟨0#16, 0x06#8, 24#8⟩ .identity)) (fun t => (t.out, t.permCalls)) =
      some ([[]], 0) := by decide

/-- V17's case by override: bit 7 of the padding byte at the last queue byte. -/
theorem test_squeezeDefPad :
    after (exec (.squeezeDefPad 0x80) (small [1, 2, 3, 4, 5, 6, 7, 0] 7)) (fun t => t.out.map (·.take 8)) =
      some [[1, 2, 3, 4, 5, 6, 7, 0x80]] := by decide

/-- V29: RESET clears queue, stale bytes, words and cursor, and leaves the error record. -/
theorem test_reset :
    after (exec .reset { small [9, 2, 3, 4, 5, 6, 7, 8] 1 with
        w := (Vector.replicate 50 0 : Words).set 0 0x08070605, status := 0x11, errcmd := 5 })
      (fun t => (t.q, t.c, wordAt t.w 0, t.status, t.errcmd)) = some ([0, 0, 0, 0, 0, 0, 0, 0], 0, 0, 0x11, 5) := by decide

/-! ## Steps, errors, registers, construction -/

/-- V32, first word: the first rejection is recorded. -/
theorem test_reject_first :
    after (step (sent [0x07000000000000AA, 0x0100000000000162]))
      (fun t => ([t.status, readReg t 7, readReg t 6], t.n, t.cmds, t.faults)) =
      some ([0x11, 0x07000000, 0x000000AA], 1, [0x0100000000000162], [.commandError 0 .illegalOpcode]) := by decide

/-- V32, second word: a later rejection leaves the record, and is noted as a fault. -/
theorem test_reject_later :
    after (step { sent [0x0100000000000162] with status := 0x11, errcmd := 0x07000000000000AA, n := 1 })
      (fun t => (t.status, t.errcmd, t.n, t.c, t.faults)) =
      some (0x11, 0x07000000000000AA, 2, 0, [.commandError 1 .reservedField]) := by decide

/-- A rejection with cause 2 first: `ERR` in bit 0, `CAUSE` in bits 7:4 (10_state R28). -/
theorem test_reject_reserved :
    after (step (sent [0x0100000000000161])) (fun t => t.status) = some 0x21 := by decide

/-- The next step after reset runs the word put on the port. -/
theorem test_withFetchWord :
    after (step (State.reset.withFetchWord 64 0x0100000000000061)) (fun t => (t.q.take 1, t.c, t.n, t.cmds)) =
      some ([0x61], 1, 1, []) := by decide

/-- V31: the register map on a fresh instance with `cfg = (256, 0x06, 24)`. -/
theorem test_registers :
    (List.range 9).map (readReg State.reset) = [0x00000000, 0x00000100, 0x06, 0x18, 0x88, 0x20, 0, 0, 0] := by decide

/-- 70_reset R126, R127: a legal construction and a refused one. -/
theorem test_construct :
    after (construct 768 0x1F 12 .identity) (fun t => (t.cfg, t.q.length, t.c, t.status)) =
      some (⟨768, 0x1F, 12⟩, 8, 0, 0) ∧
    (match construct 800 6 24 .identity with | .next _ => false | .fault _ => false | .refused r => r == .illegalConfiguration) =
      true := by decide

/-- The host's sends wait in order (10_state R33). -/
theorem test_send :
    (send 2 (send 1 State.reset)).cmds = [1, 2] ∧
    (sendBytes [0x61, 0, 0, 0, 0, 0, 0, 1] State.reset).1.cmds = [0x0100000000000061] := by decide

/-! ## Witnesses: for each statement with hypotheses, values that meet them all -/

theorem shape_small_0 : (small [0, 0, 0, 0, 0, 0, 0, 0] 0).Shape := ⟨by decide, by decide, by decide⟩
theorem shape_small_7 : (small [1, 2, 3, 4, 5, 6, 7, 0] 7).Shape := ⟨by decide, by decide, by decide⟩
theorem shape_sent (cws : List Command) : (sent cws).Shape := shape_small_0

theorem witness_AcceptedWordsAreEncodings : decode 0x02401F0000000014 = .command (.squeezePad 0x1F 20) := by decide

theorem witness_OpcodeMapDecides :
    (0x01000000000000FF#64 &&& 0xFFFFFFFFFFFFFF00#64 = 0x0100000000000000#64) ∧
    (0x02000000FFFFFFFF#64 &&& 0xFFFFFFFF00000000#64 = 0x0200000000000000#64) ∧
    (0x0240FF00FFFFFFFF#64 &&& 0xFFFF00FF00000000#64 = 0x0240000000000000#64) ∧
    (0x0280000000000000#64 &&& 0xFFFFFFFFFFFFFFFF#64 = 0x0280000000000000#64) ∧
    (0x02C0FF0000000000#64 &&& 0xFFFF00FFFFFFFFFF#64 = 0x02C0000000000000#64) ∧
    (0x0300000000000000#64 &&& 0xFFFFFFFFFFFFFFFF#64 = 0x0300000000000000#64) ∧
    (∀ r ∈ opcodeMap, r.hits 0x0400000000000000 = false) ∧ (∀ r ∈ opcodeMap, r.hits 0x0100000000000100 = false) := by decide

theorem witness_IllegalOpcodesRejected :
    (0x00FFFFFFFFFFFFFF#64).toNat / 2 ^ 56 = 0 ∧
    (4 ≤ (0x0400000000000000#64).toNat / 2 ^ 56 ∧ (0x0400000000000000#64).toNat / 2 ^ 56 ≤ 0xFF) ∧
    (4 ≤ (0xFFFFFFFFFFFFFFFF#64).toNat / 2 ^ 56 ∧ (0xFFFFFFFFFFFFFFFF#64).toNat / 2 ^ 56 ≤ 0xFF) := by decide +kernel

/-- One word for each reserved field, at the field's lowest or highest bit. -/
theorem witness_ReservedFieldsRejected :
    (opcode 0x0100000000000100 = 1 ∧ field 8 48 0x0100000000000100 ≠ 0) ∧
    (opcode 0x0220000000000000 = 2 ∧ field 48 6 0x0220000000000000 ≠ 0) ∧
    (opcode 0x0200000100000000 = 2 ∧ field 32 8 0x0200000100000000 ≠ 0) ∧
    (opcode 0x0280000080000000 = 2 ∧ field 55 1 0x0280000080000000 = 1 ∧ field 0 32 0x0280000080000000 ≠ 0) ∧
    (opcode 0x0200800000000000 = 2 ∧ field 54 1 0x0200800000000000 = 0 ∧ field 40 8 0x0200800000000000 ≠ 0) ∧
    (opcode 0x0380000000000000 = 3 ∧ field 0 56 0x0380000000000000 ≠ 0) ∧
    (sent [0x0100000000000100]).cmds = 0x0100000000000100 :: [] := by decide

theorem witness_TransportRoundTrip : ([1, 2, 3, 4, 5, 6, 7] : List Byte).length < 8 := by decide

theorem witness_AssemblyWords : (255 ≤ 255 ∧ ¬ 256 ≤ 255) ∧ (2 ^ 32 - 1 ≤ 2 ^ 32 - 1 ∧ ¬ 2 ^ 32 ≤ 2 ^ 32 - 1) := by norm_num

theorem witness_PseudoFormsExpandToAbsorbs :
    (∃ v ∈ [1, 256], 255 < v) ∧ (∀ c ∈ [' ', 'a', '~'], 0x20 ≤ c.toNat ∧ c.toNat ≤ 0x7E) ∧
    (∃ c ∈ ['a', '\x7f'], c.toNat < 0x20 ∨ 0x7E < c.toNat) ∧ (∃ c ∈ ['\x1f'], c.toNat < 0x20 ∨ 0x7E < c.toNat) :=
  ⟨⟨256, by simp, by decide⟩, by simp, ⟨'\x7f', by simp, by decide⟩, ⟨'\x1f', by simp, by decide⟩⟩

theorem witness_DerivedConstants :
    legalConfig ⟨0, 0, 0⟩ = true ∧ legalConfig ⟨768, 255, 255⟩ = true := by decide

/-- Both clauses, at the edges of the legal set. -/
theorem witness_ConstructionSetsEveryState :
    ((768 : Int) % 32 = 0 ∧ (0 : Int) ≤ 768 ∧ (768 : Int) ≤ 768) ∧ ((0 : Int) ≤ 255 ∧ (255 : Int) ≤ 255) ∧
    ¬ ((800 : Int) % 32 = 0 ∧ (0 : Int) ≤ 800 ∧ (800 : Int) ≤ 768) := by decide

/-- A block of the largest length and the empty block, for the packing statements (PackXorsEachByteIntoItsPlace,
PackWordsLittleEndian, UnpackInvertsPack). -/
theorem witness_PackBlocks :
    (List.replicate 200 (0xFF : Byte)).length % 8 = 0 ∧ (List.replicate 200 (0xFF : Byte)).length ≤ 200 ∧
    ([] : List Byte).length % 8 = 0 ∧ 8 * 24 < (List.replicate 200 (0xFF : Byte)).length ∧
    (List.replicate 8 (0xFF : Byte)).length / 4 ≤ 2 := by decide +kernel

/-- Byte indexes at which the injectivity clause of PackXorsEachByteIntoItsPlace meets. -/
theorem witness_PackXorsEachByteIntoItsPlace : 199 < 200 ∧ widx 199 = widx 199 ∧ bpos 199 = bpos 199 := by decide +kernel

theorem witness_UnpackReadsEachByteFromItsPlace : 200 ≤ 200 ∧ 199 < 200 ∧ 4 < 5 := by decide +kernel
theorem witness_LaneBytesLittleEndian : 24 < 25 ∧ 7 < 8 ∧ 0 < 8 := by decide

theorem witness_PackLinearOverXor :
    (List.replicate 8 (1 : Byte)).length = (List.replicate 8 (2 : Byte)).length ∧
    (List.replicate 8 (2 : Byte)).length % 8 = 0 ∧ (List.replicate 8 (2 : Byte)).length ≤ 200 := by decide

theorem witness_AbsorbBelowLastByte : (small [0, 0, 0, 0, 0, 0, 0, 0] 6).c + 1 ≠ rate (small [0, 0, 0, 0, 0, 0, 0, 0] 6).cfg := by
  decide

theorem witness_AbsorbCompletesTheBlock :
    (small [1, 2, 3, 4, 5, 6, 7, 0] 7).Shape ∧
    (small [1, 2, 3, 4, 5, 6, 7, 0] 7).c + 1 = rate (small [1, 2, 3, 4, 5, 6, 7, 0] 7).cfg := ⟨shape_small_7, by decide⟩

/-- Both cases of the cursor rule, and a command that answers a next state. -/
theorem witness_AbsorbCursorStaysBelowRate :
    (small [0, 0, 0, 0, 0, 0, 0, 0] 0).Shape ∧ (small [1, 2, 3, 4, 5, 6, 7, 0] 7).Shape ∧
    exec .reset (small [1, 2, 3, 4, 5, 6, 7, 0] 7) = .next (zeroSponge (small [1, 2, 3, 4, 5, 6, 7, 0] 7)) :=
  ⟨shape_small_0, shape_small_7, rfl⟩

theorem witness_AbsorbFrame :
    exec (.absorb 5) (small [0, 0, 0, 0, 0, 0, 0, 0] 0) = .next (absorbByte 5 (small [0, 0, 0, 0, 0, 0, 0, 0] 0)) ∧
    1 ≠ (small [0, 0, 0, 0, 0, 0, 0, 0] 0).c ∧
    (small [0, 0, 0, 0, 0, 0, 0, 0] 0).c + 1 ≠ rate (small [0, 0, 0, 0, 0, 0, 0, 0] 0).cfg := ⟨rfl, by decide, by decide⟩

theorem witness_AbsorbedMessageState :
    legalConfig (sent []).cfg = true ∧ (sent []).w = Vector.replicate 50 0#32 ∧
    (sent []).q = List.replicate (rate (sent []).cfg) 0#8 ∧ (sent []).c = 0 := by decide

theorem witness_SqueezesDoNotDisturbAbsorption :
    ∀ i ∈ [Instr.squeeze 3, .squeezePad 1 2, .squeezeDef, .squeezeDefPad 0], isSqueeze i = true := by decide

theorem witness_WholeBlocksLeaveAnEmptyQueue :
    (legalConfig (sent []).cfg = true ∧ (sent []).w = Vector.replicate 50 0#32 ∧
      (sent []).q = List.replicate (rate (sent []).cfg) 0#8 ∧ (sent []).c = 0) ∧
    (List.replicate 16 (7 : Byte)).length % rate (sent []).cfg = 0 := by decide

/-- The cursor below the last byte, and at it. -/
theorem witness_PaddedSnapshotBytes :
    ((small [0, 0, 0, 0, 0, 0, 0, 0] 0).Shape ∧ (small [0, 0, 0, 0, 0, 0, 0, 0] 0).c < rate (small [] 0).cfg - 1) ∧
    ((small [1, 2, 3, 4, 5, 6, 7, 0] 7).Shape ∧ (small [1, 2, 3, 4, 5, 6, 7, 0] 7).c = rate (small [] 0).cfg - 1) :=
  ⟨⟨shape_small_0, by decide⟩, ⟨shape_small_7, by decide⟩⟩

theorem witness_SqueezeOutputs : (small [1, 2, 3, 4, 5, 6, 7, 0] 7).Shape := shape_small_7

theorem witness_SqueezeZeroLength : (State.fresh ⟨0#16, 0x06#8, 24#8⟩ .external).cfg.cap = 0#16 := by decide

/-- SqueezeRepeatable: the first and the last command are SQUEEZEs that ask for the same, with only SQUEEZEs between. -/
theorem witness_SqueezeRepeatable :
    isSqueeze (.squeeze 96) = true ∧ isSqueeze (.squeezeDefPad 6) = true ∧
    (∀ k ∈ [Instr.squeezePad 1 2, .squeezeDef], isSqueeze k = true) ∧
    squeezeRequest (small [] 0) (.squeeze 96) = squeezeRequest (small [] 0) (.squeezeDefPad 6) := by decide

/-- SqueezeFrame: each form is a SQUEEZE. -/
theorem witness_SqueezeFrame :
    isSqueeze (.squeeze 0) = true ∧ isSqueeze (.squeezePad 0 0) = true ∧ isSqueeze .squeezeDef = true ∧
    isSqueeze (.squeezeDefPad 0) = true := by decide

theorem witness_OverrideLastsOneCommand : (small [0, 0, 0, 0, 0, 0, 0, 0] 0).Shape := shape_small_0

theorem witness_SqueezePrefixes :
    (small [1, 2, 3, 4, 5, 6, 7, 0] 7).Shape ∧
    squeezeRequest (small [1, 2, 3, 4, 5, 6, 7, 0] 7) (.squeeze 20) = some (20, 6) ∧
    squeezeRequest (small [1, 2, 3, 4, 5, 6, 7, 0] 7) .squeezeDef = some (96, 6) ∧ 20 ≤ 96 :=
  ⟨shape_small_7, by decide⟩

/-- A rejected word on the port, for the statements about rejections (RejectionRecordsTheFirst, RejectionChangesNothingElse,
RejectionDoesNotStop, RejectionRecordedAsFault), with `ERR` 0 and with `ERR` 1. -/
theorem witness_Rejections :
    (sent [0x0100000000000100, 0x0300000000000000]).cmds = 0x0100000000000100 :: [0x0300000000000000] ∧
    decode 0x0100000000000100 = .reject .reservedField ∧ statusErr (sent [0x0100000000000100]).status = false ∧
    statusErr { sent [0x0100000000000100] with status := 0x11 }.status = true := by decide

/-- `ERR` 1 and a step that answers a next state (RejectionRecordsTheFirst, second clause). -/
theorem witness_StickyError :
    statusErr { sent [0x0300000000000000] with status := 0x11 }.status = true ∧
    step { sent [0x0300000000000000] with status := 0x11 } = .next { sent [] with status := 0x11, n := 1 } := ⟨by decide, rfl⟩

/-- An accepted word on the port, for StepRunsTheDecodedCommand, RejectionChangesNothingElse and IndexCountsAcceptedWords. -/
theorem witness_StepRunsTheDecodedCommand :
    (sent [0x0100000000000061]).cmds = 0x0100000000000061 :: [] ∧ decode 0x0100000000000061 = .command (.absorb 0x61) := by
  decide

theorem witness_WaitsWithoutACommand : State.reset.cmds = [] := by decide

/-- Both clauses: a run that ends without a fault, and a clean state with words that decode. -/
theorem witness_FaultFreeRunsAcceptEveryWord :
    (runWords [0x0300000000000000] (sent []) = .next { sent [] with n := 1 } ∧ ({ sent [] with n := 1 } : State).NoFault) ∧
    (sent []).Shape ∧ (sent []).Clean ∧ (∀ cw ∈ [0x0300000000000000#64], ∃ i, decode cw = .command i) :=
  ⟨⟨rfl, rfl⟩, shape_sent [], ⟨rfl, by decide⟩, fun cw h => ⟨.reset, by simp at h; subst h; decide⟩⟩

theorem reset_inv : State.reset.Inv :=
  ⟨⟨by decide +kernel, by decide +kernel, by decide +kernel⟩, ⟨rfl, rfl⟩, List.Pairwise.nil, by simp [State.reset, State.fresh]⟩

/-- The invariant with a step on it: waiting, and a rejection recorded. -/
theorem witness_StepKeepsInvariant : State.reset.Inv ∧ step State.reset = .next State.reset := ⟨reset_inv, rfl⟩

theorem witness_ConstructedInstancesMeetInvariant : legalConfig resetConfig = true ∧ State.reset.Inv := ⟨by decide, reset_inv⟩

theorem witness_ConfigurationNeverWritten :
    step State.reset = .next State.reset ∧ (⟨32, 0, 0⟩ : Config).cap = (⟨32, 1, 1⟩ : Config).cap := ⟨rfl, by decide⟩

/-- Both commands that write `W`: RESET of a nonzero `W`, and an ABSORB that completes a block. -/
theorem witness_StateWordsWrittenOnlyByTwoCommands :
    (step { sent [0x0300000000000000] with w := Vector.replicate 50 1 } = .next { sent [] with n := 1 } ∧
      wordAt (sent []).w 0 ≠ wordAt (Vector.replicate 50 1) 0) ∧
    after (step { small [1, 2, 3, 4, 5, 6, 7, 0] 7 with cmds := [0x0100000000000008] }) (fun t => wordAt t.w 0) =
      some 0x08070605 := ⟨⟨rfl, by decide⟩, by decide⟩

theorem witness_OnlySqueezeEmits :
    (sent [0x0300000000000000]).Shape ∧ step (sent [0x0300000000000000]) = .next { sent [] with n := 1 } :=
  ⟨shape_sent _, rfl⟩

/-- Two states that differ in a stale byte. -/
theorem witness_StaleQueueBytesUnobservable :
    (small [1, 2, 3, 4, 5, 6, 7, 8] 1).Shape ∧
    SameButStale (small [1, 2, 3, 4, 5, 6, 7, 8] 1) (small [1, 0xFF, 3, 4, 5, 6, 7, 8] 1) :=
  ⟨⟨by decide, by decide, by decide⟩, by decide, by decide, rfl⟩

/-- Two instances that differ in `W`, `Q`, `C`, output and permutation. -/
theorem witness_RegisterPortTellsNoSecret :
    SamePublic (small [0, 0, 0, 0, 0, 0, 0, 0] 0)
      { small [1, 2, 3, 4, 5, 6, 7, 8] 3 with w := Vector.replicate 50 1, out := [[1]], provider := .keccak } :=
  ⟨rfl, rfl, rfl, rfl⟩

theorem witness_RegisterMap : legalConfig State.reset.cfg = true ∧ 0x07 < 0x08 := by decide

/-- Each clause: the cursor below the last byte and at it, a SQUEEZE, and a rejected word. -/
theorem witness_PermutationCallCounts :
    ((small [0, 0, 0, 0, 0, 0, 0, 0] 6).Shape ∧ (small [0, 0, 0, 0, 0, 0, 0, 0] 6).c < rate (small [] 0).cfg - 1) ∧
    ((small [1, 2, 3, 4, 5, 6, 7, 0] 7).Shape ∧ (small [1, 2, 3, 4, 5, 6, 7, 0] 7).c = rate (small [] 0).cfg - 1) ∧
    squeezeRequest (small [0, 0, 0, 0, 0, 0, 0, 0] 0) (.squeeze 9) = some (9, 6) ∧
    ((sent [0]).cmds = 0 :: [] ∧ decode 0 = .reject .illegalOpcode) :=
  ⟨⟨⟨by decide, by decide, by decide⟩, by decide⟩, ⟨shape_small_7, by decide⟩, by decide, by decide⟩

end Sys2Proof.Tests
end

