-- ==== Sys2Proof/Proofs/Scope.lean ====
section
/-! The constants derived from a legal configuration (00_scope R8). -/

namespace Sys2Proof.Machine

/-- The companion of `rate_of_legal` for the default squeeze length (00_scope R8). -/
theorem defLen_of_legal {cfg : Config} (h : legalConfig cfg = true) :
    defLen cfg % 4 = 0 ∧ defLen cfg ≤ 96 := by
  obtain ⟨hmul, hmax⟩ := legalConfig_cap h
  simp only [defLen]
  omega

/-- Settles O10: the equations are the definitions of the constants; the multiples are those that `rate_of_legal` and
`defLen_of_legal` bound, with the quotients `RATE / 8` and `DEFLEN / 4` as witnesses. -/
theorem derivedConstants : Obligations.DerivedConstants := by
  refine ⟨rfl, fun cfg h => ?_⟩
  obtain ⟨hrate, hrateMin, hrateMax⟩ := rate_of_legal h
  obtain ⟨hdef, hdefMax⟩ := defLen_of_legal h
  refine ⟨rfl, rfl, ⟨rate cfg / 8, ?_⟩, ⟨defLen cfg / 4, ?_⟩, hrateMax⟩
  · omega
  · omega

end Sys2Proof.Machine
end

/-! The state of KSW (10_state): what a step writes and keeps, the invariant of KSW, and what the outside can
tell of its state. The general facts about commands and steps come first, then each statement with the lemmas of its own. -/

namespace Sys2Proof.Machine

/-! ## Every command is ABSORB, RESET or a SQUEEZE with a request (30_encoding R59, R60, R67) -/

/-- The four SQUEEZE forms are one operation on what they ask for (30_encoding R59, R60). -/
theorem exec_of_squeezeRequest {s : State} {i : Instr} {L : Nat} {p : Byte} (h : squeezeRequest s i = some (L, p)) :
    exec i s = .next (squeezeOp L p s) := by
  cases i <;> cases h <;> rfl

/-- A request depends on the state by the configuration alone. -/
theorem squeezeRequest_congr {s t : State} (h : s.cfg = t.cfg) (i : Instr) : squeezeRequest s i = squeezeRequest t i := by
  cases i <;> simp only [squeezeRequest, h]

theorem instr_cases (s : State) (i : Instr) :
    (∃ b, i = .absorb b) ∨ (∃ L p, squeezeRequest s i = some (L, p)) ∨ i = .reset := by
  cases i with
  | absorb b => exact .inl ⟨b, rfl⟩
  | squeeze len => exact .inr (.inl ⟨_, _, rfl⟩)
  | squeezePad padv len => exact .inr (.inl ⟨_, _, rfl⟩)
  | squeezeDef => exact .inr (.inl ⟨_, _, rfl⟩)
  | squeezeDefPad padv => exact .inr (.inl ⟨_, _, rfl⟩)
  | reset => exact .inr (.inr rfl)

/-- What a command answers, read backwards: which command it was and the operation it ran. -/
theorem exec_next_cases {i : Instr} {s t : State} (h : exec i s = .next t) :
    (∃ b, i = .absorb b ∧ t = absorbByte b s) ∨
    (∃ L p, squeezeRequest s i = some (L, p) ∧ t = squeezeOp L p s) ∨
    (i = .reset ∧ t = zeroSponge s) := by
  rcases instr_cases s i with ⟨b, rfl⟩ | ⟨L, p, hr⟩ | rfl
  · cases h
    exact .inl ⟨b, rfl, rfl⟩
  · rw [exec_of_squeezeRequest hr] at h
    cases h
    exact .inr (.inl ⟨L, p, hr, rfl⟩)
  · cases h
    exact .inr (.inr ⟨rfl, rfl⟩)

theorem exec_total (i : Instr) (s : State) : ∃ t, exec i s = .next t := by
  rcases instr_cases s i with ⟨b, rfl⟩ | ⟨L, p, hr⟩ | rfl
  · exact ⟨_, rfl⟩
  · exact ⟨_, exec_of_squeezeRequest hr⟩
  · exact ⟨_, rfl⟩

/-! ## What no command writes: configuration, error record, index, stream and faults -/

/-- Two states equal in every piece that no accepted command writes (10_state R26 to R29, 60_exceptions R114). -/
structure SameControl (s t : State) : Prop where
  cfg : t.cfg = s.cfg
  provider : t.provider = s.provider
  status : t.status = s.status
  errcmd : t.errcmd = s.errcmd
  n : t.n = s.n
  cmds : t.cmds = s.cmds
  faults : t.faults = s.faults

theorem absorbByte_sameControl (b : Byte) (s : State) : SameControl s (absorbByte b s) := by
  by_cases h : s.c + 1 = rate s.cfg
  · rw [absorbByte_last b h]
    constructor <;> rfl
  · rw [absorbByte_below b h]
    constructor <;> rfl

theorem exec_sameControl {i : Instr} {s t : State} (h : exec i s = .next t) : SameControl s t := by
  rcases exec_next_cases h with ⟨b, -, rfl⟩ | ⟨L, p, -, rfl⟩ | ⟨-, rfl⟩
  · exact absorbByte_sameControl b s
  · constructor <;> rfl
  · constructor <;> rfl

/-! ## A step, forwards and backwards -/

theorem step_of_command {s : State} {cw : Command} {rest : List Command} {i : Instr} (hc : s.cmds = cw :: rest)
    (hd : decode cw = .command i) : step s = exec i (s.accept rest) := by
  simp only [step, takeCommand, hc, hd]

theorem step_of_reject {s : State} {cw : Command} {rest : List Command} {k : Cause} (hc : s.cmds = cw :: rest)
    (hd : decode cw = .reject k) : step s = .next (rejectCommand s.n cw k (s.accept rest)) := by
  simp only [step, takeCommand, hc, hd]

/-- `step_cases` read backwards, from the state a step answered. -/
theorem step_next_cases {s t : State} (h : step s = .next t) :
    t = s ∨
    (∃ cw rest i, s.cmds = cw :: rest ∧ decode cw = .command i ∧ exec i (s.accept rest) = .next t) ∨
    (∃ cw rest k, s.cmds = cw :: rest ∧ decode cw = .reject k ∧ t = rejectCommand s.n cw k (s.accept rest)) := by
  rcases step_cases s with ⟨-, hs⟩ | ⟨cw, rest, i, hc, hd, hs⟩ | ⟨cw, rest, k, hc, hd, hs⟩
  · rw [hs] at h
    cases h
    exact .inl rfl
  · exact .inr (.inl ⟨cw, rest, i, hc, hd, hs ▸ h⟩)
  · rw [hs] at h
    cases h
    exact .inr (.inr ⟨cw, rest, k, hc, hd, rfl⟩)

/-- The step principle for two states with one stream: they take the same word, so a relation that the waiting port, each
command and each rejection keep is kept by their steps. -/
theorem step_related {R : State → State → Prop} {s t : State} (hcmds : s.cmds = t.cmds) (hwait : R s t)
    (hexec : ∀ i rest, ∃ s' t', exec i (s.accept rest) = .next s' ∧ exec i (t.accept rest) = .next t' ∧ R s' t')
    (hreject : ∀ cw k rest, R (rejectCommand s.n cw k (s.accept rest)) (rejectCommand t.n cw k (t.accept rest))) :
    ∃ s' t', step s = .next s' ∧ step t = .next t' ∧ R s' t' := by
  rcases step_cases s with ⟨hc, hs⟩ | ⟨cw, rest, i, hc, hd, hs⟩ | ⟨cw, rest, k, hc, hd, hs⟩
  · have ht : step t = .next t := by simp only [step, takeCommand, ← hcmds, hc]
    exact ⟨s, t, hs, ht, hwait⟩
  · rw [hs, step_of_command (hcmds ▸ hc) hd]
    exact hexec i rest
  · rw [hs, step_of_reject (hcmds ▸ hc) hd]
    exact ⟨_, _, rfl, rfl, hreject cw k rest⟩

/-! ## The shape of the queue and the cursor (10_state R23, R24) -/

theorem absorbByte_shape {s : State} (b : Byte) (h : s.Shape) : (absorbByte b s).Shape := by
  obtain ⟨hlegal, hq, hc⟩ := h
  by_cases hlast : s.c + 1 = rate s.cfg
  · rw [absorbByte_last b hlast]
    exact ⟨hlegal, by simpa using hq, rate_pos_of_legal hlegal⟩
  · rw [absorbByte_below b hlast]
    exact ⟨hlegal, by simpa using hq, Nat.lt_of_le_of_ne hc hlast⟩

theorem squeezeOp_shape {s : State} (L : Nat) (p : Byte) (h : s.Shape) : (squeezeOp L p s).Shape := h

theorem zeroSponge_shape {s : State} (h : s.Shape) : (zeroSponge s).Shape := by
  obtain ⟨hlegal, -, -⟩ := h
  exact ⟨hlegal, List.length_replicate, rate_pos_of_legal hlegal⟩

theorem exec_shape {i : Instr} {s t : State} (h : s.Shape) (hx : exec i s = .next t) : t.Shape := by
  rcases exec_next_cases hx with ⟨b, -, rfl⟩ | ⟨L, p, -, rfl⟩ | ⟨-, rfl⟩
  · exact absorbByte_shape b h
  · exact squeezeOp_shape L p h
  · exact zeroSponge_shape h

theorem step_shape {s t : State} (h : s.Shape) (hs : step s = .next t) : t.Shape := by
  rcases step_next_cases hs with rfl | ⟨cw, rest, i, -, -, hx⟩ | ⟨cw, rest, k, -, -, rfl⟩
  · exact h
  · exact exec_shape (s := s.accept rest) h hx
  · exact h

/-! ## The error record (10_state R28, R29; 60_exceptions R111) -/

theorem record_iff_of_nil {s : State} (h : s.faults = []) : s.Record ↔ s.status = 0#32 ∧ s.errcmd = 0#64 := by
  simp [State.Record, FaultsBelow, h]

theorem record_iff_of_cons {s : State} {m : Nat} {k : Cause} {fs : List Fault} (h : s.faults = .commandError m k :: fs) :
    s.Record ↔ (s.status = statusOf k ∧ decode s.errcmd = .reject k) ∧ FaultsBelow s.n s.faults := by
  simp only [State.Record, h]

theorem record_faultsBelow {s : State} (h : s.Record) : FaultsBelow s.n s.faults := h.2

theorem faultsBelow_mono {m n : Nat} {fs : List Fault} (h : FaultsBelow m fs) (hmn : m ≤ n) : FaultsBelow n fs := by
  refine ⟨h.1, ?_⟩
  rintro ⟨j, k⟩ hf
  exact Nat.lt_of_lt_of_le (h.2 _ hf) hmn

/-- Recording a fault at the index of the word just taken (60_exceptions R113). -/
theorem faultsBelow_append {n : Nat} {fs : List Fault} (h : FaultsBelow n fs) (k : Cause) :
    FaultsBelow (n + 1) (fs ++ [.commandError n k]) := by
  obtain ⟨hrise, hbound⟩ := h
  constructor
  · refine List.pairwise_append.2 ⟨hrise, List.pairwise_singleton _ _, ?_⟩
    rintro ⟨j, k'⟩ hf g hg
    cases List.mem_singleton.1 hg
    exact hbound _ hf
  · rintro ⟨j, k'⟩ hf
    rcases List.mem_append.1 hf with hf | hf
    · exact Nat.lt_succ_of_lt (hbound _ hf)
    · cases List.mem_singleton.1 hf
      exact Nat.lt_succ_self n

theorem statusErr_statusOf (k : Cause) : statusErr (statusOf k) = true := by
  cases k <;> decide

theorem statusReject_zero (k : Cause) : statusReject k 0#32 = statusOf k := by
  cases k <;> decide

/-- A later rejection leaves `STATUS` as the first one wrote it (60_exceptions R111). -/
theorem statusReject_statusOf (k k' : Cause) : statusReject k' (statusOf k) = statusOf k := by
  cases k <;> cases k' <;> decide

theorem errcmdReject_zero (cw : Command) (old : BitVec 64) : errcmdReject cw 0#32 old = cw := rfl

theorem errcmdReject_statusOf (cw : Command) (k : Cause) (old : BitVec 64) : errcmdReject cw (statusOf k) old = old := by
  simp only [errcmdReject, statusErr_statusOf, if_true]

theorem record_of_sameControl {s t : State} (h : SameControl s t) (hr : s.Record) : t.Record := by
  simpa only [State.Record, h.faults, h.status, h.errcmd, h.n] using hr

theorem accept_record {s : State} (rest : List Command) (h : s.Record) : (s.accept rest).Record :=
  ⟨h.1, faultsBelow_mono h.2 (Nat.le_succ _)⟩

/-- The first rejection fills the record, every later one keeps it. -/
theorem rejectCommand_record {s : State} {cw : Command} {k : Cause} (rest : List Command) (hd : decode cw = .reject k)
    (h : s.Record) : (rejectCommand s.n cw k (s.accept rest)).Record := by
  have hbelow := faultsBelow_append (record_faultsBelow h) k
  rw [rejectCommand_eq]
  cases hf : s.faults with
  | nil =>
    obtain ⟨hstatus, -⟩ := (record_iff_of_nil hf).1 h
    refine (record_iff_of_cons (by simp only [State.accept_faults, hf]; rfl)).2 ⟨⟨?_, ?_⟩, hbelow⟩
    · simp only [State.accept_status, hstatus, statusReject_zero]
    · simpa only [State.accept_status, hstatus, errcmdReject_zero] using hd
  | cons f fs =>
    obtain ⟨m, k'⟩ := f
    obtain ⟨⟨hstatus, herrcmd⟩, -⟩ := (record_iff_of_cons hf).1 h
    refine (record_iff_of_cons (by simp only [State.accept_faults, hf]; rfl)).2 ⟨⟨?_, ?_⟩, hbelow⟩
    · simp only [State.accept_status, hstatus, statusReject_statusOf]
    · simpa only [State.accept_status, State.accept_errcmd, hstatus, errcmdReject_statusOf] using herrcmd

theorem step_record {s t : State} (h : s.Record) (hs : step s = .next t) : t.Record := by
  rcases step_next_cases hs with rfl | ⟨cw, rest, i, -, -, hx⟩ | ⟨cw, rest, k, -, hd, rfl⟩
  · exact h
  · exact record_of_sameControl (exec_sameControl hx) (accept_record rest h)
  · exact rejectCommand_record rest hd h

/-- Settles O48: a step keeps the shape (`step_shape`) and, independently of it, the error record (`step_record`). -/
theorem stepKeepsInvariant : Obligations.StepKeepsInvariant :=
  fun _ _ h hs => ⟨step_shape h.1 hs, step_record h.2 hs⟩

/-! ## The stale queue bytes (10_state R25) -/

/-- A state that differs in the stale bytes at most is the same state with another queue. -/
theorem sameButStale_iff {s t : State} :
    SameButStale s t ↔ ∃ q, t = s.setQ q ∧ s.q.length = q.length ∧ s.q.take s.c = q.take s.c := by
  constructor
  · rintro ⟨hlen, htake, ht⟩
    exact ⟨t.q, ht, hlen, htake⟩
  · rintro ⟨q, rfl, hlen, htake⟩
    exact ⟨hlen, htake, rfl⟩

theorem sameButStale_refl (s : State) : SameButStale s s := ⟨rfl, rfl, rfl⟩

theorem observe_eq_of_sameButStale {s t : State} (h : SameButStale s t) : s.observe = t.observe := by
  obtain ⟨q, rfl, -, htake⟩ := sameButStale_iff.1 h
  simp only [State.observe, State.setQ_w, State.setQ_q, State.setQ_c, State.setQ_status, State.setQ_errcmd, State.setQ_out,
    htake]

/-- ABSORB below the last byte queues one byte more on both sides; at the last byte it makes the queues equal. -/
theorem absorbByte_sameButStale {s t : State} (b : Byte) (hs : s.Shape) (h : SameButStale s t) :
    SameButStale (absorbByte b s) (absorbByte b t) := by
  obtain ⟨q, rfl, hlen, htake⟩ := sameButStale_iff.1 h
  obtain ⟨-, hq, hc⟩ := hs
  by_cases hlast : s.c + 1 = rate s.cfg
  · have hset : s.q.set s.c b = q.set s.c b := by
      rw [set_last_eq b (by omega), set_last_eq b (by omega), htake]
    rw [absorbByte_last b hlast, absorbByte_last (s := s.setQ q) b hlast]
    simp only [State.setQ_q, State.setQ_c, State.setQ_w, ← hset]
    exact sameButStale_refl _
  · rw [absorbByte_below b hlast, absorbByte_below (s := s.setQ q) b hlast]
    refine sameButStale_iff.2 ⟨q.set s.c b, rfl, ?_, ?_⟩
    · simpa using hlen
    · simp only [take_set_below b (show s.c < s.q.length by omega), take_set_below b (show s.c < q.length by omega), htake]

theorem squeezeOp_sameButStale {s t : State} (L : Nat) (p : Byte) (h : SameButStale s t) :
    SameButStale (squeezeOp L p s) (squeezeOp L p t) := by
  obtain ⟨q, rfl, hlen, htake⟩ := sameButStale_iff.1 h
  have hout : squeezed L p s = squeezed L p (s.setQ q) := squeezed_congr L p htake rfl rfl rfl rfl
  rw [squeezeOp_eq, squeezeOp_eq, ← hout]
  exact ⟨hlen, htake, rfl⟩

theorem zeroSponge_sameButStale {s t : State} (h : SameButStale s t) : SameButStale (zeroSponge s) (zeroSponge t) := by
  obtain ⟨q, rfl, -, -⟩ := sameButStale_iff.1 h
  exact sameButStale_refl _

theorem exec_sameButStale {s t : State} (i : Instr) (hs : s.Shape) (h : SameButStale s t) :
    ∃ s' t', exec i s = .next s' ∧ exec i t = .next t' ∧ SameButStale s' t' := by
  have hcfg : s.cfg = t.cfg := by
    obtain ⟨q, rfl, -, -⟩ := sameButStale_iff.1 h
    rfl
  rcases instr_cases s i with ⟨b, rfl⟩ | ⟨L, p, hr⟩ | rfl
  · exact ⟨_, _, rfl, rfl, absorbByte_sameButStale b hs h⟩
  · exact ⟨_, _, exec_of_squeezeRequest hr, exec_of_squeezeRequest (squeezeRequest_congr hcfg i ▸ hr),
      squeezeOp_sameButStale L p h⟩
  · exact ⟨_, _, rfl, rfl, zeroSponge_sameButStale h⟩

theorem step_sameButStale {s t : State} (hs : s.Shape) (h : SameButStale s t) :
    ∃ s' t', step s = .next s' ∧ step t = .next t' ∧ SameButStale s' t' := by
  obtain ⟨q, rfl, hlen, htake⟩ := sameButStale_iff.1 h
  refine step_related rfl h (fun i rest => ?_) (fun cw k rest => ⟨hlen, htake, rfl⟩)
  exact exec_sameButStale (s := s.accept rest) i hs ⟨hlen, htake, rfl⟩

/-- Settles O52: the steps keep the relation, and the relation gives equal observations. -/
theorem staleQueueBytesUnobservable : Obligations.StaleQueueBytesUnobservable := by
  intro s t hs h
  obtain ⟨s', t', hs', ht', h'⟩ := step_sameButStale hs h
  exact ⟨s', t', hs', ht', step_shape hs hs', h', observe_eq_of_sameButStale h'⟩

/-! ## The byte order of a lane (10_state R21, 20_memory R39) -/

/-- A byte of a lane is a byte of its low half or of its high half. -/
theorem extractLsb'_lane (high low : Word) {j : Nat} (hj : j < 8) :
    (high ++ low : BitVec 64).extractLsb' (8 * j) 8 = byteOf (j % 4) (if j < 4 then low else high) := by
  by_cases h : j < 4
  · rw [BitVec.extractLsb'_append_eq_of_add_le (by omega), if_pos h, byteOf, Nat.mod_eq_of_lt h]
  · rw [BitVec.extractLsb'_append_eq_of_le (by omega), if_neg h, byteOf, show 8 * (j % 4) = 8 * j - 32 by omega]

/-- Settles O16: both sides are byte `j mod 4` of the same half-word. -/
theorem laneBytesLittleEndian : Obligations.LaneBytesLittleEndian := by
  intro w k j hk hj
  rw [image, image_prefix_getElem? w 25 k j hk hj, laneBytes_getElem? w k j hj, extractLsb'_lane _ _ hj]
  split <;> rfl

/-! ## What a step writes (10_state R22, R26, R27, R34) -/

/-- Settles O49: no command writes the configuration (`exec_sameControl`), and neither does the port or a rejection. -/
theorem configurationNeverWritten : Obligations.ConfigurationNeverWritten := by
  refine ⟨fun s t h => ?_, fun cfg p => ⟨rfl, rfl⟩, fun cfg cfg' h => by simp only [rate, defLen, h, and_self]⟩
  rcases step_next_cases h with rfl | ⟨cw, rest, i, -, -, hx⟩ | ⟨cw, rest, k, -, -, rfl⟩
  · exact ⟨rfl, rfl⟩
  · exact ⟨(exec_sameControl hx).cfg, (exec_sameControl hx).provider⟩
  · exact ⟨rfl, rfl⟩

theorem exec_writes_w {i : Instr} {s t : State} (h : exec i s = .next t) (hw : t.w ≠ s.w) :
    i = .reset ∨ ∃ b, i = .absorb b ∧ s.c + 1 = rate s.cfg := by
  rcases exec_next_cases h with ⟨b, hi, rfl⟩ | ⟨L, p, -, rfl⟩ | ⟨hi, -⟩
  · refine .inr ⟨b, hi, ?_⟩
    by_contra hlast
    exact hw (by rw [absorbByte_below b hlast])
  · exact absurd rfl hw
  · exact .inl hi

/-- Settles O50: taking a word and rejecting it keep W, so a change of W is the command's. -/
theorem stateWordsWrittenOnlyByTwoCommands : Obligations.StateWordsWrittenOnlyByTwoCommands := by
  intro s t h hw
  rcases step_next_cases h with rfl | ⟨cw, rest, i, hc, hd, hx⟩ | ⟨cw, rest, k, -, -, rfl⟩
  · exact absurd rfl hw
  · exact ⟨cw, rest, i, hc, hd, exec_writes_w (s := s.accept rest) hx hw⟩
  · exact absurd rfl hw

theorem absorbByte_out (b : Byte) (s : State) : (absorbByte b s).out = s.out := by
  by_cases h : s.c + 1 = rate s.cfg
  · rw [absorbByte_last b h]
  · rw [absorbByte_below b h]

theorem squeezed_length {s : State} (L : Nat) (p : Byte) (h : legalConfig s.cfg = true) :
    (squeezed L p s).bytes.length = L := by
  obtain ⟨-, -, hmax⟩ := rate_of_legal h
  exact squeezeLoop_length _ (rate_pos_of_legal h) hmax L _ 0 (Nat.sub_le L 0)

theorem exec_out {i : Instr} {s t : State} (hlegal : legalConfig s.cfg = true) (h : exec i s = .next t) :
    t.out = s.out ∨
    ∃ L p bytes, squeezeRequest s i = some (L, p) ∧ t.out = s.out ++ [bytes] ∧ bytes.length = L := by
  rcases exec_next_cases h with ⟨b, -, rfl⟩ | ⟨L, p, hr, rfl⟩ | ⟨-, rfl⟩
  · exact .inl (absorbByte_out b s)
  · exact .inr ⟨L, p, _, hr, rfl, squeezed_length L p hlegal⟩
  · exact .inl rfl

/-- Settles O51: taking a word and rejecting it emit nothing, so an emission is the command's (`exec_out`). -/
theorem onlySqueezeEmits : Obligations.OnlySqueezeEmits := by
  intro s t hs h
  rcases step_next_cases h with rfl | ⟨cw, rest, i, hc, hd, hx⟩ | ⟨cw, rest, k, -, -, rfl⟩
  · exact .inl rfl
  · rcases exec_out (s := s.accept rest) hs.1 hx with hout | ⟨L, p, bytes, hr, hout, hlen⟩
    · exact .inl hout
    · exact .inr ⟨cw, rest, i, L, p, bytes, hc, hd, squeezeRequest_congr (State.accept_cfg s rest) i ▸ hr, hout, hlen⟩
  · exact .inl rfl

/-! ## The register read port (10_state R31, R32) -/

/-- A register read depends on the configuration and the error record alone. -/
theorem readReg_congr {s t : State} (h : SamePublic s t) (a : Nat) : readReg s a = readReg t a := by
  obtain ⟨hcfg, hstatus, herrcmd, -⟩ := h
  simp only [readReg, hcfg, hstatus, herrcmd]

theorem samePublic_of_sameControl {s s' t t' : State} (hs : SameControl s s') (ht : SameControl t t')
    (h : SamePublic s t) : SamePublic s' t' := by
  obtain ⟨hcfg, hstatus, herrcmd, hcmds⟩ := h
  exact ⟨by rw [hs.cfg, ht.cfg, hcfg], by rw [hs.status, ht.status, hstatus], by rw [hs.errcmd, ht.errcmd, herrcmd],
    by rw [hs.cmds, ht.cmds, hcmds]⟩

theorem accept_samePublic {s t : State} (rest : List Command) (h : SamePublic s t) :
    SamePublic (s.accept rest) (t.accept rest) := by
  obtain ⟨hcfg, hstatus, herrcmd, -⟩ := h
  exact ⟨hcfg, hstatus, herrcmd, rfl⟩

/-- A rejection writes the public record from the public record and the word. -/
theorem rejectCommand_samePublic {s t : State} (m n : Nat) (cw : Command) (k : Cause) (h : SamePublic s t) :
    SamePublic (rejectCommand m cw k s) (rejectCommand n cw k t) := by
  obtain ⟨hcfg, hstatus, herrcmd, hcmds⟩ := h
  refine ⟨hcfg, ?_, ?_, hcmds⟩
  · simp only [rejectCommand_eq, hstatus]
  · simp only [rejectCommand_eq, hstatus, herrcmd]

theorem step_samePublic {s t : State} (h : SamePublic s t) :
    ∃ s' t', step s = .next s' ∧ step t = .next t' ∧ SamePublic s' t' := by
  have ⟨_, _, _, hcmds⟩ := h
  refine step_related hcmds h (fun i rest => ?_)
    (fun cw k rest => rejectCommand_samePublic s.n t.n cw k (accept_samePublic rest h))
  obtain ⟨s', hs'⟩ := exec_total i (s.accept rest)
  obtain ⟨t', ht'⟩ := exec_total i (t.accept rest)
  exact ⟨s', t', hs', ht',
    samePublic_of_sameControl (exec_sameControl hs') (exec_sameControl ht') (accept_samePublic rest h)⟩

/-- Settles O53: reads are a function of the public part, and steps keep the public parts equal. -/
theorem registerPortTellsNoSecret : Obligations.RegisterPortTellsNoSecret := by
  intro s t h
  obtain ⟨s', t', hs', ht', h'⟩ := step_samePublic h
  exact ⟨readReg_congr h, s', t', hs', ht', h', readReg_congr h'⟩

/-- A number that fits eight bits is read through them unchanged. -/
theorem toNat_zeroExtend_ofNat {v : Nat} (h : v < 2 ^ 8) : ((BitVec.ofNat 8 v).zeroExtend 32).toNat = v := by
  rw [BitVec.toNat_setWidth_of_le (by decide), BitVec.toNat_ofNat, Nat.mod_eq_of_lt h]

theorem readReg_above {s : State} {a : Nat} (h : 7 < a) : readReg s a = 0#32 := by
  match a, h with
  | a + 8, _ => rfl

/-- Settles O54: each address by its row of the map; RATE and DEFLEN of a legal configuration fit the eight bits they are
read through. -/
theorem registerMap : Obligations.RegisterMap := by
  intro s hlegal
  have hrate : rate s.cfg < 2 ^ 8 := by have := rate_of_legal hlegal; omega
  have hdef : defLen s.cfg < 2 ^ 8 := by have := defLen_of_legal hlegal; omega
  refine ⟨rfl, BitVec.toNat_setWidth_of_le (by decide), BitVec.toNat_setWidth_of_le (by decide),
    BitVec.toNat_setWidth_of_le (by decide), toNat_zeroExtend_ofNat hrate, toNat_zeroExtend_ofNat hdef, ?_, ?_,
    fun a ha => readReg_above ha⟩
  · simp [readReg, BitVec.extractLsb'_toNat]
  · simp only [readReg, BitVec.extractLsb'_toNat, Nat.shiftRight_eq_div_pow]
    omega

/-! ## Construction and the command index (10_state R27, R36) -/

/-- Settles O12: each field as `State.fresh` sets it for `resetConfig`. -/
theorem powerOnValues : Obligations.PowerOnValues := ⟨rfl, rfl, rfl, rfl, rfl, rfl, rfl, rfl, rfl⟩

/-- Settles O42: accepting the word is taking it off the stream and advancing the index. -/
theorem stepRunsTheDecodedCommand : Obligations.StepRunsTheDecodedCommand :=
  fun _ _ _ _ hc hd => step_of_command hc hd

/-- Settles O44: the port advances the index, and neither a command nor a rejection writes it. -/
theorem indexCountsAcceptedWords : Obligations.IndexCountsAcceptedWords := by
  refine ⟨fun s cw rest hc => ?_, fun cfg p => rfl⟩
  cases hd : decode cw with
  | command i =>
    obtain ⟨t, ht⟩ := exec_total i (s.accept rest)
    exact ⟨t, (step_of_command hc hd).trans ht, (exec_sameControl ht).n, (exec_sameControl ht).cmds⟩
  | reject k => exact ⟨_, step_of_reject hc hd, rfl, rfl⟩

end Sys2Proof.Machine

/-! The command stream (20_memory): its words as transport bytes, and a run over the words of commands. -/

namespace Sys2Proof

/-! ## A byte transport of command words (R42) -/

/-- Two neighbouring fields of a word are one field. -/
theorem field_append_field {lo mid : Nat} (width width' : Nat) (cw : Command) (h : mid = lo + width) :
    field mid width' cw ++ field lo width cw = field lo (width' + width) cw :=
  BitVec.extractLsb'_append_extractLsb'_eq_extractLsb' h

/-- Eight bytes of a word, put together again least significant first, are the word. -/
theorem append_bytes_eq (cw : Command) :
    (field 56 8 cw ++ field 48 8 cw ++ field 40 8 cw ++ field 32 8 cw ++
      field 24 8 cw ++ field 16 8 cw ++ field 8 8 cw ++ field 0 8 cw : Command) = cw := by
  iterate 7 rw [field_append_field _ _ _ (by decide)]
  exact BitVec.extractLsb'_eq_self

theorem commandsOfBytes_transportBytes_append (cw : Command) (bs : List Byte) :
    commandsOfBytes (transportBytes cw ++ bs) = (cw :: (commandsOfBytes bs).1, (commandsOfBytes bs).2) :=
  congrArg (fun w => (w :: (commandsOfBytes bs).1, (commandsOfBytes bs).2)) (append_bytes_eq cw)

/-- Fewer than eight bytes form no word (log entry 18). -/
theorem commandsOfBytes_of_length_lt {bs : List Byte} (h : bs.length < 8) : commandsOfBytes bs = ([], bs) := by
  unfold commandsOfBytes
  split
  · simp only [List.length_cons] at h
    omega
  · rfl

theorem commandsOfBytes_flatMap_append (cws : List Command) {tail : List Byte} (h : tail.length < 8) :
    commandsOfBytes (cws.flatMap transportBytes ++ tail) = (cws, tail) := by
  induction cws with
  | nil => exact commandsOfBytes_of_length_lt h
  | cons cw cws ih =>
    rw [List.flatMap_cons, List.append_assoc, commandsOfBytes_transportBytes_append, ih]

/-- Settles O7: by induction on the words, each of which is put together from its eight bytes. -/
theorem transportRoundTrip : Obligations.TransportRoundTrip :=
  fun cws _ h => ⟨commandsOfBytes_flatMap_append cws h, fun _ => ⟨rfl, rfl⟩⟩

/-! ## The decoder on an encoding (30_encoding R55 to R57, R61) -/

theorem opcode_eq_iff (cw : Command) (v : BitVec 8) : opcode cw = v ↔ cw.toNat / 2 ^ 56 % 2 ^ 8 = v.toNat :=
  field_eq_iff 56 8 cw v

/-- Format A with its reserved field zero. -/
theorem decode_of_toNat_absorb {cw : Command} {b : Byte} (h : cw.toNat = 0x01 * 2 ^ 56 + b.toNat) :
    decode cw = .command (.absorb b) := by
  have hb := b.isLt
  have hop : opcode cw = 0x01#8 := by rw [opcode_eq_iff, h, BitVec.toNat_ofNat]; omega
  have hzero : field 8 48 cw = 0#48 := by rw [field_eq_iff, h, BitVec.toNat_ofNat]; omega
  have hdata : field 0 8 cw = b := by rw [field_eq_iff, h]; omega
  simp only [decode, hop, hzero, hdata, ne_eq, not_true_eq_false, if_true, if_false]

theorem decode_of_opcode_squeeze {cw : Command} (h : opcode cw = 0x02#8) : decode cw = decodeSqueeze cw := by
  simp [decode, h]

/-- Format S with its reserved fields zero: `DEF` leaves no length to give, and without `POV` there is no padding byte to
give; the two bits choose the form. -/
theorem decode_of_toNat_squeeze {cw : Command} {defBit pov : BitVec 1} {padv : Byte} {len : BitVec 32}
    (h : cw.toNat = 0x02 * 2 ^ 56 + defBit.toNat * 2 ^ 55 + pov.toNat * 2 ^ 54 + padv.toNat * 2 ^ 40 + len.toNat)
    (hlen : defBit = 1#1 → len = 0#32) (hpadv : pov = 0#1 → padv = 0#8) :
    decode cw = .command
      (if defBit = 1#1 then (if pov = 1#1 then .squeezeDefPad padv else .squeezeDef)
       else (if pov = 1#1 then .squeezePad padv len else .squeeze len)) := by
  have hdefBit := defBit.isLt
  have hpov := pov.isLt
  have hpadvLt := padv.isLt
  have hlenLt := len.isLt
  have hop : opcode cw = 0x02#8 := by rw [opcode_eq_iff, h, BitVec.toNat_ofNat]; omega
  have hdef : field 55 1 cw = defBit := by rw [field_eq_iff, h]; omega
  have hov : field 54 1 cw = pov := by rw [field_eq_iff, h]; omega
  have hpad : field 40 8 cw = padv := by rw [field_eq_iff, h]; omega
  have hlo : field 0 32 cw = len := by rw [field_eq_iff, h]; omega
  have hzero : field 48 6 cw = 0#6 := by rw [field_eq_iff, h, BitVec.toNat_ofNat]; omega
  have hzero' : field 32 8 cw = 0#8 := by rw [field_eq_iff, h, BitVec.toNat_ofNat]; omega
  have hnoLen : ¬ (defBit = 1#1 ∧ len ≠ 0#32) := fun ⟨hd, hne⟩ => hne (hlen hd)
  have hnoPad : ¬ (pov = 0#1 ∧ padv ≠ 0#8) := fun ⟨hp, hne⟩ => hne (hpadv hp)
  rw [decode_of_opcode_squeeze hop]
  simp only [decodeSqueeze, hdef, hov, hpad, hlo, hzero, hzero', ne_eq, not_true_eq_false, or_self, if_false,
    if_neg hnoLen, if_neg hnoPad, apply_ite Decoded.command]

/-- Format R with its reserved field zero. -/
theorem decode_of_toNat_reset {cw : Command} (h : cw.toNat = 0x03 * 2 ^ 56) : decode cw = .command .reset := by
  have hop : opcode cw = 0x03#8 := by rw [opcode_eq_iff, h]; rfl
  have hzero : field 0 56 cw = 0#56 := by rw [field_eq_iff, h]; rfl
  simp [decode, hop, hzero]

theorem decode_encode (i : Instr) : decode (encode i) = .command i := by
  cases i with
  | absorb b => exact decode_of_toNat_absorb (encode_absorb_toNat b)
  | squeeze len =>
    exact decode_of_toNat_squeeze (defBit := 0#1) (pov := 0#1) (padv := 0#8) (len := len)
      (by simp [encode_squeeze_toNat]) (by simp) (by simp)
  | squeezePad padv len =>
    exact decode_of_toNat_squeeze (defBit := 0#1) (pov := 1#1) (padv := padv) (len := len)
      (by simp [encode_squeezePad_toNat]) (by simp) (by simp)
  | squeezeDef =>
    exact decode_of_toNat_squeeze (defBit := 1#1) (pov := 0#1) (padv := 0#8) (len := 0#32)
      (by simp [encode_squeezeDef_toNat]) (by simp) (by simp)
  | squeezeDefPad padv =>
    exact decode_of_toNat_squeeze (defBit := 1#1) (pov := 1#1) (padv := padv) (len := 0#32)
      (by simp [encode_squeezeDefPad_toNat]) (by simp) (by simp)
  | reset => exact decode_of_toNat_reset encode_reset_toNat

end Sys2Proof

namespace Sys2Proof.Machine

/-! ## Commands in order (R49) -/

theorem execAll_total (is : List Instr) (s : State) : ∃ t, execAll is s = .next t := by
  induction is generalizing s with
  | nil => exact ⟨s, rfl⟩
  | cons i is ih =>
    obtain ⟨s', hs'⟩ := exec_total i s
    rw [execAll_cons is hs']
    exact ih s'

/-- What a sequence answers, read backwards: its first command answers, and the rest goes on from there. -/
theorem execAll_cons_next {i : Instr} {is : List Instr} {s t : State} (h : execAll (i :: is) s = .next t) :
    ∃ s', exec i s = .next s' ∧ execAll is s' = .next t := by
  obtain ⟨s', hs'⟩ := exec_total i s
  exact ⟨s', hs', execAll_cons is hs' ▸ h⟩

theorem execAll_cmds {is : List Instr} {s t : State} (h : execAll is s = .next t) : t.cmds = s.cmds := by
  induction is generalizing s with
  | nil =>
    cases h
    rfl
  | cons i is ih =>
    obtain ⟨s', hs', ht⟩ := execAll_cons_next h
    rw [ih ht, (exec_sameControl hs').cmds]

/-! ## A run over the words of commands (10_state R33, 70_reset R140) -/

/-- The same state with another command port: the command index and the words that wait. -/
def State.setPort (s : State) (n : Nat) (cmds : List Command) : State := { s with n := n, cmds := cmds }

theorem absorbByte_setPort (b : Byte) (s : State) (n : Nat) (cmds : List Command) :
    absorbByte b (s.setPort n cmds) = (absorbByte b s).setPort n cmds := by
  by_cases h : s.c + 1 = rate s.cfg
  · rw [absorbByte_last b h, absorbByte_last (s := s.setPort n cmds) b h]
    rfl
  · rw [absorbByte_below b h, absorbByte_below (s := s.setPort n cmds) b h]
    rfl

/-- A command does not look at the port it came from. -/
theorem exec_setPort {i : Instr} {s t : State} (h : exec i s = .next t) (n : Nat) (cmds : List Command) :
    exec i (s.setPort n cmds) = .next (t.setPort n cmds) := by
  rcases exec_next_cases h with ⟨b, rfl, rfl⟩ | ⟨L, p, hr, rfl⟩ | ⟨rfl, rfl⟩
  · exact congrArg Host.Outcome.next (absorbByte_setPort b s n cmds)
  · exact exec_of_squeezeRequest (squeezeRequest_congr (t := s.setPort n cmds) rfl i ▸ hr)
  · rfl

/-- The step that takes a command's word is the command, on a state whose port has moved on by that word. -/
theorem step_setPort_encode {i : Instr} {s t : State} (h : exec i s = .next t) (n : Nat) (rest : List Command) :
    step (s.setPort n (encode i :: rest)) = .next (t.setPort (n + 1) rest) :=
  (step_of_command rfl (decode_encode i)).trans (exec_setPort h (n + 1) rest)

/-- The run simulates the commands: each step keeps the two states equal but for the port. -/
theorem run_setPort_encode {is : List Instr} {s t : State} (h : execAll is s = .next t) (n : Nat) :
    Host.Core.run Sys2Proof.core is.length (s.setPort n (is.map encode)) = .next (t.setPort (n + is.length) []) := by
  induction is generalizing s n with
  | nil =>
    cases h
    rfl
  | cons i is ih =>
    obtain ⟨s', hs', ht⟩ := execAll_cons_next h
    rw [List.map_cons, List.length_cons, run_succ _ (step_setPort_encode hs' n _), ih ht (n + 1), Nat.add_right_comm,
      Nat.add_assoc]

/-- Settles O45: the commands always answer a state (`execAll_total`), and the run simulates them step for step. -/
theorem runsEndAndAreTheirCommands : Obligations.RunsEndAndAreTheirCommands := by
  intro is s
  obtain ⟨u, hu⟩ := execAll_total is { s with cmds := [] }
  have hempty : u.cmds = [] := execAll_cmds hu
  refine ⟨u.setPort (s.n + is.length) [], u, ?_, hu, ?_⟩
  · rw [runWords, List.length_map]
    exact run_setPort_encode hu s.n
  · rw [← hempty]
    rfl

end Sys2Proof.Machine

/-! The encoding of commands (30_encoding): which words the decoder rejects and why, that the others are exactly the
encodings, the opcode map over both, and the assembler's words. -/

namespace Sys2Proof

/-! ## Every word is rejected for its opcode, rejected for a reserved field, or an encoding (R61 to R64) -/

/-- The opcodes that name a format (30_encoding R54). -/
def LegalOpcode (cw : Command) : Prop := opcode cw = 0x01#8 ∨ opcode cw = 0x02#8 ∨ opcode cw = 0x03#8

/-- A reserved field of the word's format, or a conditional one that its `DEF` or `POV` bit leaves unused, is not zero
(30_encoding R55 to R57, R63). -/
def ReservedFieldSet (cw : Command) : Prop :=
  (opcode cw = 0x01#8 ∧ field 8 48 cw ≠ 0#48) ∨
  (opcode cw = 0x02#8 ∧ (field 48 6 cw ≠ 0#6 ∨ field 32 8 cw ≠ 0#8 ∨ (field 55 1 cw = 1#1 ∧ field 0 32 cw ≠ 0#32) ∨
    (field 54 1 cw = 0#1 ∧ field 40 8 cw ≠ 0#8))) ∨
  (opcode cw = 0x03#8 ∧ field 0 56 cw ≠ 0#56)

theorem decode_of_not_legalOpcode {cw : Command} (h : ¬ LegalOpcode cw) : decode cw = .reject .illegalOpcode := by
  obtain ⟨h1, h2, h3⟩ : opcode cw ≠ 0x01#8 ∧ opcode cw ≠ 0x02#8 ∧ opcode cw ≠ 0x03#8 := by
    simpa only [LegalOpcode, not_or] using h
  simp only [decode, if_neg h1, if_neg h2, if_neg h3]

/-- The decoder checks the reserved fields of format S in three groups; whichever field is set, one group catches it. -/
theorem decodeSqueeze_of_reserved {cw : Command}
    (h : field 48 6 cw ≠ 0#6 ∨ field 32 8 cw ≠ 0#8 ∨ (field 55 1 cw = 1#1 ∧ field 0 32 cw ≠ 0#32) ∨
      (field 54 1 cw = 0#1 ∧ field 40 8 cw ≠ 0#8)) :
    decodeSqueeze cw = .reject .reservedField := by
  by_cases hfixed : field 48 6 cw ≠ 0#6 ∨ field 32 8 cw ≠ 0#8
  · simp only [decodeSqueeze, if_pos hfixed]
  by_cases hlen : field 55 1 cw = 1#1 ∧ field 0 32 cw ≠ 0#32
  · simp only [decodeSqueeze, if_neg hfixed, if_pos hlen]
  have hpadv : field 54 1 cw = 0#1 ∧ field 40 8 cw ≠ 0#8 := ((or_assoc.mpr h).resolve_left hfixed).resolve_left hlen
  simp only [decodeSqueeze, if_neg hfixed, if_neg hlen, if_pos hpadv]

theorem decode_of_reservedFieldSet {cw : Command} (h : ReservedFieldSet cw) : decode cw = .reject .reservedField := by
  rcases h with ⟨hop, hset⟩ | ⟨hop, hset⟩ | ⟨hop, hset⟩
  · simp [decode, hop, hset]
  · rw [decode_of_opcode_squeeze hop, decodeSqueeze_of_reserved hset]
  · simp [decode, hop, hset]

/-- A word of format S whose reserved fields are zero is the sum of its other fields, each at its place. -/
theorem squeeze_toNat_of_fields {cw : Command} (hop : opcode cw = 0x02#8) (hzero : field 48 6 cw = 0#6)
    (hzero' : field 32 8 cw = 0#8) :
    cw.toNat = 0x02 * 2 ^ 56 + (field 55 1 cw).toNat * 2 ^ 55 + (field 54 1 cw).toNat * 2 ^ 54 +
      (field 40 8 cw).toNat * 2 ^ 40 + (field 0 32 cw).toNat := by
  have hlt := cw.isLt
  rw [opcode_eq_iff, BitVec.toNat_ofNat] at hop
  rw [field_eq_iff, BitVec.toNat_ofNat] at hzero hzero'
  simp only [field_toNat]
  omega

/-- Format S: the two bits choose the form, and the field a form has no operand for is zero. -/
theorem exists_encode_of_squeeze_fields {cw : Command} (hop : opcode cw = 0x02#8) (hzero : field 48 6 cw = 0#6)
    (hzero' : field 32 8 cw = 0#8) (hlen : field 55 1 cw = 1#1 → field 0 32 cw = 0#32)
    (hpadv : field 54 1 cw = 0#1 → field 40 8 cw = 0#8) : ∃ i, encode i = cw := by
  have hsum := squeeze_toNat_of_fields hop hzero hzero'
  rcases BitVec.eq_zero_or_eq_one (field 55 1 cw) with hd | hd <;>
    rcases BitVec.eq_zero_or_eq_one (field 54 1 cw) with hp | hp
  · refine ⟨.squeeze (field 0 32 cw), BitVec.eq_of_toNat_eq ?_⟩
    rw [encode_squeeze_toNat, hsum, hd, hp, hpadv hp]
    simp
  · refine ⟨.squeezePad (field 40 8 cw) (field 0 32 cw), BitVec.eq_of_toNat_eq ?_⟩
    rw [encode_squeezePad_toNat, hsum, hd, hp]
    simp
  · refine ⟨.squeezeDef, BitVec.eq_of_toNat_eq ?_⟩
    rw [encode_squeezeDef_toNat, hsum, hd, hp, hlen hd, hpadv hp]
    simp
  · refine ⟨.squeezeDefPad (field 40 8 cw), BitVec.eq_of_toNat_eq ?_⟩
    rw [encode_squeezeDefPad_toNat, hsum, hd, hp, hlen hd]
    simp

/-- A word with a legal opcode and no reserved field set is the word of a command. -/
theorem exists_encode_of_not_reservedFieldSet {cw : Command} (hlegal : LegalOpcode cw) (h : ¬ ReservedFieldSet cw) :
    ∃ i, encode i = cw := by
  have hlt := cw.isLt
  simp only [ReservedFieldSet, not_or, not_and, not_not] at h
  obtain ⟨hA, hS, hR⟩ := h
  rcases hlegal with hop | hop | hop
  · have hzero := hA hop
    refine ⟨.absorb (field 0 8 cw), BitVec.eq_of_toNat_eq ?_⟩
    rw [opcode_eq_iff, BitVec.toNat_ofNat] at hop
    rw [field_eq_iff, BitVec.toNat_ofNat] at hzero
    rw [encode_absorb_toNat, field_toNat]
    omega
  · obtain ⟨hzero, hzero', hlen, hpadv⟩ := hS hop
    exact exists_encode_of_squeeze_fields hop hzero hzero' hlen hpadv
  · have hzero := hR hop
    refine ⟨.reset, BitVec.eq_of_toNat_eq ?_⟩
    rw [opcode_eq_iff, BitVec.toNat_ofNat] at hop
    rw [field_eq_iff, BitVec.toNat_ofNat] at hzero
    rw [encode_reset_toNat]
    omega

/-- The whole of the decoder: the opcode is illegal, or it is legal and the word rejected for a reserved field, or the word
is the encoding of the command it decodes to. -/
theorem decode_cases (cw : Command) :
    (¬ LegalOpcode cw ∧ decode cw = .reject .illegalOpcode) ∨
    (LegalOpcode cw ∧ decode cw = .reject .reservedField) ∨
    (∃ i, encode i = cw ∧ LegalOpcode cw ∧ decode cw = .command i) := by
  by_cases hlegal : LegalOpcode cw
  · by_cases hset : ReservedFieldSet cw
    · exact .inr (.inl ⟨hlegal, decode_of_reservedFieldSet hset⟩)
    · obtain ⟨i, rfl⟩ := exists_encode_of_not_reservedFieldSet hlegal hset
      exact .inr (.inr ⟨i, rfl, hlegal, decode_encode i⟩)
  · exact .inl ⟨hlegal, decode_of_not_legalOpcode hlegal⟩

/-- Settles O1: `decode_encode`, which takes the encoding of each command as a sum of fields and reads the fields back. -/
theorem decodeEncodeRoundTrip : Obligations.DecodeEncodeRoundTrip := decode_encode

/-- Settles O2: a word that is not rejected is some command's encoding (`decode_cases`), and then decodes to that one. -/
theorem acceptedWordsAreEncodings : Obligations.AcceptedWordsAreEncodings := by
  intro cw i h
  rcases decode_cases cw with ⟨-, hd⟩ | ⟨-, hd⟩ | ⟨j, hj, -, hd⟩
  · cases hd.symm.trans h
  · cases hd.symm.trans h
  · cases hd.symm.trans h
    exact hj

theorem decode_eq_illegalOpcode_iff (cw : Command) : decode cw = .reject .illegalOpcode ↔ ¬ LegalOpcode cw := by
  rcases decode_cases cw with ⟨hl, hd⟩ | ⟨hl, hd⟩ | ⟨i, -, hl, hd⟩ <;> simp [hl, hd]

/-- Settles O4: the decoder's illegal opcodes (`decode_eq_illegalOpcode_iff`), as values of the word's top byte. -/
theorem illegalOpcodesRejected : Obligations.IllegalOpcodesRejected := by
  intro cw
  have hlt := cw.isLt
  rw [decode_eq_illegalOpcode_iff, LegalOpcode]
  simp only [opcode_eq_iff, BitVec.toNat_ofNat]
  omega

/-- Settles O5: the decoder rejects (`decode_of_reservedFieldSet`), and a step on a rejected word is `rejectCommand`. -/
theorem reservedFieldsRejected : Obligations.ReservedFieldsRejected := by
  intro cw hset
  have hd := decode_of_reservedFieldSet hset
  exact ⟨hd, fun s rest hc => ⟨_, Machine.step_of_reject hc hd, rfl⟩⟩

/-! ## The rows of the opcode map: a mask keeps the fixed bits of a form and leaves out its operands (R67) -/

/-- A word under a mask, with the bits the mask leaves out put back. -/
theorem or_and_not_eq {cw mask pattern : Command} (h : cw &&& mask = pattern) : pattern ||| cw &&& ~~~mask = cw := by
  rw [← h, ← BitVec.and_or_distrib_left, BitVec.or_not_self, BitVec.and_allOnes]

theorem getElem_place {lo width k : Nat} (v : BitVec width) (hk : k < 64) :
    (place lo v)[k] = (decide (lo ≤ k) && v.getLsbD (k - lo)) := by
  by_cases h : lo ≤ k <;> simp [place, h]

/-- The bits of a field, alone at their place. -/
theorem place_field (lo width : Nat) (cw : Command) :
    place lo (field lo width cw) = cw &&& place lo (BitVec.allOnes width) := by
  ext k hk
  by_cases h : lo ≤ k
  · simp [getElem_place, field, h, BitVec.getLsbD_eq_getElem hk, Bool.and_comm]
  · simp [getElem_place, h]

/-- A field has no bits outside its place. -/
theorem place_and_allOnes (lo : Nat) {width : Nat} (v : BitVec width) :
    place lo v &&& place lo (BitVec.allOnes width) = place lo v := by
  ext k hk
  simp only [BitVec.getElem_and, getElem_place, BitVec.getLsbD_allOnes, Bool.and_eq_left_iff_imp, Bool.and_eq_true,
    decide_eq_true_eq]
  exact fun ⟨hlo, hbit⟩ => ⟨hlo, BitVec.lt_of_getLsbD hbit⟩

/-- A mask that leaves the place of a field out drops the field. -/
theorem or_place_and {lo width : Nat} (a : Command) (v : BitVec width) {mask : Command}
    (h : place lo (BitVec.allOnes width) &&& mask = 0#64) : (a ||| place lo v) &&& mask = a &&& mask := by
  rw [BitVec.and_or_distrib_right, ← place_and_allOnes lo v, BitVec.and_assoc, h, BitVec.and_zero, BitVec.or_zero]

/-- The word of a command matches the command's row: the mask keeps the row's pattern and drops the operands. -/
theorem encode_and_mask (i : Instr) : encode i &&& i.row.mask = i.row.pattern := by
  cases i <;> simp only [encode, Instr.row]
  case absorb b => exact (or_place_and _ b (by decide)).trans (by decide)
  case squeeze len => exact (or_place_and _ len (by decide)).trans (by decide)
  case squeezePad padv len =>
    exact (or_place_and _ len (by decide)).trans ((or_place_and _ padv (by decide)).trans (by decide))
  case squeezeDef => decide
  case squeezeDefPad padv => exact (or_place_and _ padv (by decide)).trans (by decide)
  case reset => decide

/-- The same form of command with the operands taken from the fields of a word (30_encoding R55, R56). -/
def Instr.withFieldsOf (cw : Command) : Instr → Instr
  | .absorb _ => .absorb (field 0 8 cw)
  | .squeeze _ => .squeeze (field 0 32 cw)
  | .squeezePad _ _ => .squeezePad (field 40 8 cw) (field 0 32 cw)
  | .squeezeDef => .squeezeDef
  | .squeezeDefPad _ => .squeezeDefPad (field 40 8 cw)
  | .reset => .reset

theorem row_withFieldsOf (cw : Command) (i : Instr) : (i.withFieldsOf cw).row = i.row := by
  cases i <;> rfl

/-- The fixed bits and the operand bits of a word, each given by a constant that evaluates to a row's. -/
theorem or_and_not_congr {a pattern operands mask : Command} (cw : Command) (ha : a = pattern)
    (hoperands : operands = ~~~mask) : a ||| cw &&& operands = pattern ||| cw &&& ~~~mask := by
  rw [ha, hoperands]

/-- A mask of all ones leaves nothing of a word out. -/
theorem and_not_allOnes (cw : Command) : cw &&& ~~~0xFFFFFFFFFFFFFFFF#64 = 0#64 := by
  rw [show ~~~0xFFFFFFFFFFFFFFFF#64 = 0#64 by decide, BitVec.and_zero]

/-- The word of a row's command with a word's operands: the row's pattern and, of the word, the bits outside the mask. -/
theorem encode_withFieldsOf (cw : Command) (i : Instr) :
    encode (i.withFieldsOf cw) = i.row.pattern ||| cw &&& ~~~i.row.mask := by
  cases i <;> simp only [Instr.withFieldsOf, encode, Instr.row, place_field]
  case absorb b => exact or_and_not_congr cw (by decide) (by decide)
  case squeeze len => exact or_and_not_congr cw (by decide) (by decide)
  case squeezePad padv len =>
    rw [BitVec.or_assoc, ← BitVec.and_or_distrib_left]
    exact or_and_not_congr cw (by decide) (by decide)
  case squeezeDef => rw [and_not_allOnes]; decide
  case squeezeDefPad padv => exact or_and_not_congr cw (by decide) (by decide)
  case reset => rw [and_not_allOnes]; decide

/-- A word that matches a row decodes to the row's command with the operands in the row's fields. -/
theorem decode_of_and_mask (i : Instr) {cw : Command} (h : cw &&& i.row.mask = i.row.pattern) :
    decode cw = .command (i.withFieldsOf cw) := by
  rw [← decode_encode (i.withFieldsOf cw), encode_withFieldsOf, or_and_not_eq h]

theorem row_mem_opcodeMap (i : Instr) : i.row ∈ opcodeMap := by
  cases i <;> simp [opcodeMap, Instr.row]

theorem exists_row_eq_of_mem {r : Row} (h : r ∈ opcodeMap) : ∃ i : Instr, i.row = r := by
  simp only [opcodeMap, List.mem_cons, List.not_mem_nil, or_false] at h
  rcases h with h | h | h | h | h | h <;> exact ⟨_, h.symm⟩

theorem hits_iff (r : Row) (cw : Command) : r.hits cw = true ↔ cw &&& r.mask = r.pattern := beq_iff_eq

/-- A row matches a word exactly when the word decodes to a command of that row. -/
theorem hits_iff_decode {r : Row} (hr : r ∈ opcodeMap) (cw : Command) :
    r.hits cw = true ↔ ∃ i, decode cw = .command i ∧ i.row = r := by
  rw [hits_iff]
  constructor
  · intro h
    obtain ⟨i, rfl⟩ := exists_row_eq_of_mem hr
    exact ⟨i.withFieldsOf cw, decode_of_and_mask i h, row_withFieldsOf cw i⟩
  · rintro ⟨i, hd, rfl⟩
    rw [← acceptedWordsAreEncodings cw i hd]
    exact encode_and_mask i

theorem row_eq_of_hits {r r' : Row} {cw : Command} (hr : r ∈ opcodeMap) (hr' : r' ∈ opcodeMap)
    (h : r.hits cw = true) (h' : r'.hits cw = true) : r = r' := by
  obtain ⟨i, hd, hi⟩ := (hits_iff_decode hr cw).mp h
  obtain ⟨j, hd', hj⟩ := (hits_iff_decode hr' cw).mp h'
  cases hd.symm.trans hd'
  exact hi.symm.trans hj

theorem decode_of_no_hit {cw : Command} (h : ∀ r ∈ opcodeMap, r.hits cw = false) :
    decode cw = .reject (if opcode cw = 0x01#8 ∨ opcode cw = 0x02#8 ∨ opcode cw = 0x03#8 then .reservedField
      else .illegalOpcode) := by
  rcases decode_cases cw with ⟨hl, hd⟩ | ⟨hl, hd⟩ | ⟨i, -, -, hd⟩
  · rw [hd]
    exact congrArg Decoded.reject (if_neg hl).symm
  · rw [hd]
    exact congrArg Decoded.reject (if_pos hl).symm
  · have hhit := (hits_iff_decode (row_mem_opcodeMap i) cw).mpr ⟨i, hd, rfl⟩
    cases (h _ (row_mem_opcodeMap i)).symm.trans hhit

/-- Settles O3: a row's clause is `decode_of_and_mask` for the command of that row; a matching row is the row of what the
word decodes to, so there is at most one, and a word without one is rejected. -/
theorem opcodeMapDecides : Obligations.OpcodeMapDecides :=
  ⟨rfl, fun _ => ⟨fun _ hr _ hr' => row_eq_of_hits hr hr',
    decode_of_and_mask (.absorb 0), decode_of_and_mask (.squeeze 0), decode_of_and_mask (.squeezePad 0 0),
    decode_of_and_mask .squeezeDef, decode_of_and_mask (.squeezeDefPad 0), decode_of_and_mask .reset,
    decode_of_no_hit⟩⟩

end Sys2Proof

namespace Sys2Proof.Machine

/-! ## The assembler (R65, R66) -/

theorem isByte_iff (v : Nat) : isByte v = true ↔ v ≤ 255 := by
  rw [isByte, decide_eq_true_eq]
  omega

theorem isLen_iff (v : Nat) : isLen v = true ↔ v ≤ 2 ^ 32 - 1 := by
  rw [isLen, decide_eq_true_eq]
  omega

theorem isText_iff (c : Char) : isText c = true ↔ 0x20 ≤ c.toNat ∧ c.toNat ≤ 0x7E := by
  simp only [isText, Bool.and_eq_true, decide_eq_true_eq]

theorem isByte_toNat (b : Byte) : isByte b.toNat = true := decide_eq_true b.isLt

/-- A number that fits its field, put at the field's place. -/
theorem place_ofNat (lo : Nat) {width v : Nat} (hv : v < 2 ^ width) (hw : width ≤ 64) :
    place lo (BitVec.ofNat width v) = BitVec.ofNat 64 v <<< lo := by
  rw [place, BitVec.zeroExtend_eq_setWidth, BitVec.setWidth_ofNat_of_le_of_lt hw hv]

/-- A line that stands for one command where its operands fit has that command's word there, and no word elsewhere. -/
theorem assembleWords_of_ite {l : AsmLine} {fits : Bool} {P : Prop} [Decidable P] {i : Instr} {cw : Command}
    (hl : assemble l = if fits = true then some [i] else none) (hP : fits = true ↔ P) (hcw : P → encode i = cw) :
    assembleWords l = if P then some [cw] else none := by
  rw [assembleWords, hl]
  by_cases h : P
  · rw [if_pos (hP.mpr h), if_pos h, ← hcw h]
    rfl
  · rw [if_neg (mt hP.mp h), if_neg h]
    rfl

/-- Settles O8: for each form the command it stands for, when its operands fit (`assembleWords_of_ite`), and that command's
word with the numbers as written (`place_ofNat`). -/
theorem assemblyWords : Obligations.AssemblyWords := by
  intro b len
  have hbyte (lo : Nat) (hb : b ≤ 255) : place lo (BitVec.ofNat 8 b) = BitVec.ofNat 64 b <<< lo :=
    place_ofNat lo (by omega) (by decide)
  have hlen (hl : len ≤ 2 ^ 32 - 1) : place 0 (BitVec.ofNat 32 len) = BitVec.ofNat 64 len := by
    rw [place_ofNat 0 (by omega) (by decide), BitVec.shiftLeft_zero]
  refine ⟨assembleWords_of_ite rfl (isByte_iff b) fun hb => ?_, assembleWords_of_ite rfl (isLen_iff len) fun hl => ?_,
    assembleWords_of_ite rfl (by rw [Bool.and_eq_true, isLen_iff, isByte_iff]) fun ⟨hl, hb⟩ => ?_, by decide,
    assembleWords_of_ite rfl (isByte_iff b) fun hb => ?_, by decide⟩
  · rw [encode, hbyte 0 hb, BitVec.shiftLeft_zero]
    rfl
  · rw [encode, hlen hl]
    rfl
  · rw [encode, hbyte 40 hb, hlen hl]
    rfl
  · rw [encode, hbyte 40 hb]
    rfl

theorem assemble_absorbSeq_of_isByte {bs : List Nat} (h : ∀ v ∈ bs, isByte v = true) :
    assemble (.absorbSeq bs) = some (absorbSeq (bs.map (BitVec.ofNat 8))) :=
  if_pos (List.all_eq_true.mpr h)

theorem assemble_absorbSeq_toNat (bs : List Byte) :
    assemble (.absorbSeq (bs.map (·.toNat))) = some (bs.map .absorb) := by
  have hall : ∀ v ∈ bs.map (·.toNat), isByte v = true := by
    simp only [List.forall_mem_map]
    exact fun b _ => isByte_toNat b
  rw [assemble_absorbSeq_of_isByte hall, List.map_map]
  simp [absorbSeq]

theorem assemble_absorbSeq_eq_none {bs : List Nat} (h : ∃ v ∈ bs, 255 < v) : assemble (.absorbSeq bs) = none := by
  obtain ⟨v, hv, hlt⟩ := h
  refine if_neg fun hall => ?_
  have := (isByte_iff v).mp (List.all_eq_true.mp hall v hv)
  omega

/-- A text of allowed characters: their codes are bytes, so `absorb.seq` takes them too. -/
theorem assemble_absorbStr_of_text {text : List Char} (h : ∀ c ∈ text, 0x20 ≤ c.toNat ∧ c.toNat ≤ 0x7E) :
    assemble (.absorbStr text) = assemble (.absorbSeq (text.map (·.toNat))) := by
  have htext : text.all isText = true := List.all_eq_true.mpr fun c hc => (isText_iff c).mpr (h c hc)
  have hbytes : ∀ v ∈ text.map (·.toNat), isByte v = true := by
    simp only [List.forall_mem_map]
    exact fun c hc => (isByte_iff _).mpr ((h c hc).2.trans (by decide))
  rw [assemble_absorbSeq_of_isByte hbytes, List.map_map]
  exact if_pos htext

theorem assemble_absorbStr_eq_none {text : List Char} (h : ∃ c ∈ text, c.toNat < 0x20 ∨ 0x7E < c.toNat) :
    assemble (.absorbStr text) = none := by
  obtain ⟨c, hc, hout⟩ := h
  refine if_neg fun hall => ?_
  have := (isText_iff c).mp (List.all_eq_true.mp hall c hc)
  omega

/-- Settles O9: what `assemble` answers to each pseudo-form, by whether every number is a byte and every character is
allowed. -/
theorem pseudoFormsExpandToAbsorbs : Obligations.PseudoFormsExpandToAbsorbs :=
  ⟨assemble_absorbSeq_toNat, rfl, fun _ => assemble_absorbSeq_eq_none, fun _ => assemble_absorbStr_of_text,
    fun _ => assemble_absorbStr_eq_none⟩

end Sys2Proof.Machine

/-! The packing engine (40_packing): PACK is one XOR of block bytes into image bytes, and UNPACK reads image bytes, so that
each statement about the two is an equation of bytes. -/

namespace Sys2Proof.Machine

/-! ## PACK by lanes (R69) -/

theorem packWord_even (block : List Byte) (k : Nat) :
    packWord block (2 * k) =
      le32 (byteAt block (8 * k + 4)) (byteAt block (8 * k + 5)) (byteAt block (8 * k + 6)) (byteAt block (8 * k + 7)) := by
  simp [packWord]

theorem packWord_odd (block : List Byte) (k : Nat) :
    packWord block (2 * k + 1) =
      le32 (byteAt block (8 * k)) (byteAt block (8 * k + 1)) (byteAt block (8 * k + 2)) (byteAt block (8 * k + 3)) := by
  simp [packWord, show (2 * k + 1) / 2 = k by omega]

theorem wordAt_pack_of_lt (block : List Byte) (w : Words) {j : Nat} (hn : block.length ≤ 200)
    (hj : j / 2 < block.length / 8) : wordAt (pack block w) j = wordAt w j ^^^ packWord block j := by
  rw [wordAt_pack block w j hn, if_pos hj]

/-- Settles O14: lane `k` is words `2k` and `2k+1`, and PACK runs over the lanes below `n/8`. -/
theorem packWordsLittleEndian : Obligations.PackWordsLittleEndian := by
  intro block w hmod hn
  refine ⟨fun k hk => ⟨?_, ?_⟩, fun j hj _ => ?_⟩
  · rw [wordAt_pack_of_lt block w hn (by omega), packWord_even]
  · rw [wordAt_pack_of_lt block w hn (by omega), packWord_odd]
  · rw [wordAt_pack block w j hn, if_neg (by omega)]

/-! ## PACK by bytes (R70) -/

theorem widx_div_two (i : Nat) : widx i / 2 = i / 8 := by
  simp only [widx]
  split <;> omega

theorem byteAt_of_length_le {block : List Byte} {i : Nat} (h : block.length ≤ i) : byteAt block i = 0#8 :=
  List.getD_eq_default _ _ h

/-- PACK XORs byte `i` of the block into byte `i` of the image; past its end the block reads as zeros, which change nothing
(40_packing R70). -/
theorem imageByte_pack (block : List Byte) (w : Words) (i : Nat) (hmod : block.length % 8 = 0) (hn : block.length ≤ 200) :
    imageByte (pack block w) i = imageByte w i ^^^ byteAt block i := by
  have hlane : widx i / 2 < block.length / 8 ↔ i < block.length := by
    rw [widx_div_two]
    omega
  rw [imageByte_eq, imageByte_eq, wordAt_pack block w _ hn]
  by_cases hi : i < block.length
  · rw [if_pos (hlane.mpr hi), byteOf_xor, byteOf_packWord]
  · rw [if_neg (mt hlane.mp hi), byteAt_of_length_le (by omega), BitVec.xor_zero]

theorem widx_lt {i : Nat} (h : i < 200) : widx i < 50 := by
  have := widx_div_two i
  omega

theorem bpos_cases (i : Nat) : bpos i = 0 ∨ bpos i = 8 ∨ bpos i = 16 ∨ bpos i = 24 := by
  simp only [bpos]
  omega

/-- A byte's word and bit position tell which byte it is. -/
theorem eq_of_widx_eq_of_bpos_eq {i j : Nat} (hw : widx i = widx j) (hb : bpos i = bpos j) : i = j := by
  simp only [widx] at hw
  simp only [bpos] at hb
  split at hw <;> split at hw <;> omega

/-- Settles O13: `imageByte_pack` at each byte, and the places of the bytes. -/
theorem packXorsEachByteIntoItsPlace : Obligations.PackXorsEachByteIntoItsPlace := by
  refine ⟨fun block w hmod hn i _ => ?_, fun i hi => ⟨widx_lt hi, bpos_cases i⟩,
    fun i j _ _ => eq_of_widx_eq_of_bpos_eq⟩
  rw [imageByte_pack block w i hmod hn]
  split
  next => rfl
  next hi => rw [byteAt_of_length_le (by omega), BitVec.xor_zero]

/-! ## UNPACK (R72, R73) -/

theorem unpack_eq_take (w : Words) {n : Nat} (hn : n ≤ 200) : unpack w n = (unpack w 200).take n := by
  rw [unpack, unpack, List.take_take, Nat.min_eq_left hn]

/-- Settles O15: the image holds byte `i` at its place (`unpack_getElem?`), and UNPACK takes a prefix of it. -/
theorem unpackReadsEachByteFromItsPlace : Obligations.UnpackReadsEachByteFromItsPlace := by
  intro w n hn
  refine ⟨?_, unpack_eq_take w hn, fun i hi => unpack_getElem? w n i hi hn⟩
  rw [unpack_length, Nat.min_eq_left hn]

/-! ## UNPACK inverts PACK (R74) -/

theorem byteAt_of_getElem? {block : List Byte} {i : Nat} {b : Byte} (h : block[i]? = some b) : byteAt block i = b := by
  rw [byteAt, List.getD_eq_getElem?_getD, h, Option.getD_some]

theorem byteAt_unpack (w : Words) {n i : Nat} (hi : i < n) (hn : n ≤ 200) : byteAt (unpack w n) i = imageByte w i :=
  byteAt_of_getElem? (unpack_getElem? w n i hi hn)

theorem byteAt_unpack_pack {block : List Byte} (w : Words) {i : Nat} (hmod : block.length % 8 = 0)
    (hn : block.length ≤ 200) (hi : i < block.length) :
    byteAt (unpack (pack block w) block.length) i = byteAt (unpack w block.length) i ^^^ byteAt block i := by
  rw [byteAt_unpack _ hi hn, byteAt_unpack _ hi hn, imageByte_pack block w i hmod hn]

theorem imageByte_zeros (i : Nat) : imageByte (Vector.replicate 50 0#32) i = 0#8 := by
  rw [imageByte, wordAt_replicate, BitVec.extractLsb'_zero]

/-- Blocks of one length are equal when their bytes are. -/
theorem block_ext {A B : List Byte} (hlen : A.length = B.length) (h : ∀ i, i < B.length → byteAt A i = byteAt B i) :
    A = B := by
  refine List.ext_getElem hlen fun i hA hB => ?_
  have := h i hB
  rwa [byteAt, byteAt, List.getD_eq_getElem _ _ hA, List.getD_eq_getElem _ _ hB] at this

/-- Settles O17: UNPACK reads what PACK XORed in, and the image of the zero words is zero. -/
theorem unpackInvertsPack : Obligations.UnpackInvertsPack := by
  intro block hmod hn
  refine ⟨block_ext ?_ fun i hi => ?_, fun w i hi => byteAt_unpack_pack w hmod hn hi⟩
  · rw [unpack_length, Nat.min_eq_left hn]
  · rw [byteAt_unpack_pack _ hmod hn hi, byteAt_unpack _ hi hn, imageByte_zeros, BitVec.zero_xor]

/-! ## PACK is linear over XOR (R75) -/

theorem byteAt_zipWith_xor {A B : List Byte} (hlen : A.length = B.length) (i : Nat) :
    byteAt (List.zipWith (· ^^^ ·) A B) i = byteAt A i ^^^ byteAt B i := by
  by_cases hi : i < B.length
  · simp [byteAt, hi, hlen]
  · have hzip : (List.zipWith (· ^^^ ·) A B).length ≤ i := by
      rw [List.length_zipWith]
      omega
    rw [byteAt_of_length_le hzip, byteAt_of_length_le (by omega), byteAt_of_length_le (by omega), BitVec.xor_zero]

theorem byteAt_zeros (n i : Nat) : byteAt (List.replicate n 0#8) i = 0#8 := by
  by_cases hi : i < n <;> simp [byteAt, hi]

/-- Words are equal when their images are; `words_ext_byte` over the statements' image bytes. -/
theorem words_ext_imageByte {w v : Words} (h : ∀ i, imageByte w i = imageByte v i) : w = v :=
  words_ext_byte fun i _ => h i

theorem pack_zipWith_xor {A B : List Byte} (w : Words) (hlen : A.length = B.length) (hmod : B.length % 8 = 0)
    (hn : B.length ≤ 200) : pack (List.zipWith (· ^^^ ·) A B) w = pack A (pack B w) := by
  have hzip : (List.zipWith (· ^^^ ·) A B).length = B.length := by
    rw [List.length_zipWith, hlen, Nat.min_self]
  refine words_ext_imageByte fun i => ?_
  rw [imageByte_pack _ _ _ (by omega) (by omega), imageByte_pack A _ _ (by omega) (by omega), imageByte_pack B _ _ hmod hn,
    byteAt_zipWith_xor hlen, BitVec.xor_assoc, BitVec.xor_comm (byteAt B i)]

theorem pack_pack_self {B : List Byte} (w : Words) (hmod : B.length % 8 = 0) (hn : B.length ≤ 200) :
    pack B (pack B w) = w := by
  refine words_ext_imageByte fun i => ?_
  rw [imageByte_pack _ _ _ hmod hn, imageByte_pack _ _ _ hmod hn, BitVec.xor_assoc, BitVec.xor_self, BitVec.xor_zero]

theorem pack_zeros {n : Nat} (w : Words) (hmod : n % 8 = 0) (hn : n ≤ 200) : pack (List.replicate n 0#8) w = w := by
  have hlen : (List.replicate n 0#8).length = n := List.length_replicate
  refine words_ext_imageByte fun i => ?_
  rw [imageByte_pack _ _ _ (by omega) (by omega), byteAt_zeros, BitVec.xor_zero]

/-- Settles O18: by `imageByte_pack` the three are laws of XOR on the bytes. -/
theorem packLinearOverXor : Obligations.PackLinearOverXor :=
  fun _ _ w hlen hmod hn => ⟨pack_zipWith_xor w hlen hmod hn, pack_pack_self w hmod hn, pack_zeros w hmod hn⟩

end Sys2Proof.Machine

/-! ABSORB (41_absorb): what one byte writes, a byte sequence as a fold of bytes, the state it leaves from the zero state, and
that the SQUEEZEs between two sequences do not change where absorption stands. -/

namespace Sys2Proof.Machine

/-! ## One ABSORB (R81 to R83, R88) -/

theorem absorbByte_q (b : Byte) (s : State) : (absorbByte b s).q = s.q.set s.c b := by
  by_cases h : s.c + 1 = rate s.cfg
  · rw [absorbByte_last b h]
  · rw [absorbByte_below b h]

theorem absorbByte_c (b : Byte) (s : State) : (absorbByte b s).c = if s.c + 1 = rate s.cfg then 0 else s.c + 1 := by
  by_cases h : s.c + 1 = rate s.cfg
  · rw [absorbByte_last b h, if_pos h]
  · rw [absorbByte_below b h, if_neg h]

/-- The byte that fills the queue completes the block that the queued bytes and it make up (R82). -/
theorem absorbByte_completes {s : State} (b : Byte) (hs : s.Shape) (h : s.c + 1 = rate s.cfg) :
    absorbByte b s =
      { s with q := s.q.take s.c ++ [b], w := s.perm (pack (s.q.take s.c ++ [b]) s.w), c := 0,
               permCalls := s.permCalls + 1 } := by
  obtain ⟨-, hq, -⟩ := hs
  rw [absorbByte_last b h, set_last_eq b (h.trans hq.symm)]

/-- Settles O20: the block is complete, and its permutation is the one named by the state. -/
theorem absorbCompletesTheBlock : Obligations.AbsorbCompletesTheBlock :=
  fun _ b hs h => congrArg Host.Outcome.next (absorbByte_completes b hs h)

/-- Settles O21: the cursor of ABSORB is `absorbByte_c`, and every command keeps the shape, so C below RATE. -/
theorem absorbCursorStaysBelowRate : Obligations.AbsorbCursorStaysBelowRate := by
  intro s hs
  refine ⟨fun b => ?_, fun i t h => ?_⟩
  · obtain ⟨-, -, hbelow⟩ := absorbByte_shape b hs
    obtain ⟨-, -, hc⟩ := hs
    refine ⟨_, rfl, hbelow, ?_⟩
    rw [absorbByte_c]
    by_cases hlast : s.c + 1 = rate s.cfg
    · rw [if_pos hlast, if_neg (by omega)]
    · rw [if_neg hlast, if_pos (by omega)]
  · obtain ⟨-, -, hc⟩ := exec_shape hs h
    exact Nat.ne_of_lt hc

/-- Settles O19: the branch of ABSORB that moves the cursor on. -/
theorem absorbBelowLastByte : Obligations.AbsorbBelowLastByte :=
  fun _ b h => congrArg Host.Outcome.next (absorbByte_below b h)

/-- Settles O22: the control part and the outputs are kept in both branches, the queue is written at the cursor alone, and W
in the completing branch alone. -/
theorem absorbFrame : Obligations.AbsorbFrame := by
  rintro s _ b ⟨⟩
  have hctl := absorbByte_sameControl b s
  refine ⟨⟨hctl.cfg, hctl.provider, hctl.status, hctl.errcmd, hctl.n, hctl.cmds, absorbByte_out b s, hctl.faults⟩,
    ⟨?_, fun j hj => ?_⟩, fun hbelow => ?_⟩
  · rw [absorbByte_q, List.length_set]
  · rw [absorbByte_q, List.getElem?_set_ne hj.symm]
  · rw [absorbByte_below b hbelow]
    exact ⟨rfl, rfl⟩

/-! ## A byte sequence is a fold (R84) -/

/-- The state after the bytes of a message, one ABSORB each. -/
def absorbBytes (M : List Byte) (s : State) : State := M.foldl (fun st b => absorbByte b st) s

theorem absorbBytes_cons (b : Byte) (M : List Byte) (s : State) :
    absorbBytes (b :: M) s = absorbBytes M (absorbByte b s) := rfl

theorem absorbBytes_append (M N : List Byte) (s : State) : absorbBytes (M ++ N) s = absorbBytes N (absorbBytes M s) :=
  List.foldl_append

theorem execAll_absorbSeq (M : List Byte) (s : State) : execAll (absorbSeq M) s = .next (absorbBytes M s) := by
  induction M generalizing s with
  | nil => rfl
  | cons b M ih => exact ih (absorbByte b s)

/-- Settles O23: a sequence is the fold of its bytes, and a fold goes over an appended list in two parts. -/
theorem absorbSequenceIsAFold : Obligations.AbsorbSequenceIsAFold := by
  intro s M1 M2
  refine ⟨absorbBytes M1 s, absorbBytes (M1 ++ M2) s, execAll_absorbSeq M1 s, ?_, execAll_absorbSeq _ s, rfl, rfl⟩
  rw [execAll_absorbSeq, absorbBytes_append]

/-! ## The state after a message (R85) -/

/-- Whole blocks of a message are not touched by what follows them. -/
theorem messageWords_append (P : Words → Words) {r t : Nat} {M : List Byte} (N : List Byte) (h : t * r ≤ M.length) :
    messageWords P r (M ++ N) t = messageWords P r M t := by
  induction t with
  | zero => rfl
  | succ t ih =>
    rw [Nat.succ_mul] at h
    have hblock : ((M ++ N).drop (t * r)).take r = (M.drop (t * r)).take r := by
      rw [List.drop_append_of_le_length (by omega), List.take_append_of_le_length (by rw [List.length_drop]; omega)]
    rw [messageWords, messageWords, hblock, ih (by omega)]

/-- `u` is the state after absorbing `M` from the zero state `s`: `t` blocks are mixed in and the rest of `M` is queued
(R85). -/
structure Absorbed (s : State) (M : List Byte) (t : Nat) (u : State) : Prop where
  control : SameControl s u
  shape : u.Shape
  length : M.length = t * rate s.cfg + u.c
  queued : u.q.take u.c = M.drop (t * rate s.cfg)
  words : u.w = messageWords s.perm (rate s.cfg) M t
  calls : u.permCalls = s.permCalls + t

theorem absorbed_nil {s : State} (hlegal : legalConfig s.cfg = true) (hw : s.w = Vector.replicate 50 0#32)
    (hq : s.q = List.replicate (rate s.cfg) 0#8) (hc : s.c = 0) : Absorbed s [] 0 s where
  control := by constructor <;> rfl
  shape := ⟨hlegal, by rw [hq, List.length_replicate], hc ▸ rate_pos_of_legal hlegal⟩
  length := by rw [hc, Nat.zero_mul, List.length_nil]
  queued := by rw [hc, List.take_zero, List.drop_nil]
  words := hw
  calls := rfl

theorem sameControl_trans {s t u : State} (h : SameControl s t) (h' : SameControl t u) : SameControl s u where
  cfg := h'.cfg.trans h.cfg
  provider := h'.provider.trans h.provider
  status := h'.status.trans h.status
  errcmd := h'.errcmd.trans h.errcmd
  n := h'.n.trans h.n
  cmds := h'.cmds.trans h.cmds
  faults := h'.faults.trans h.faults

/-- With one byte more, what follows the whole blocks is what was queued and that byte. -/
theorem Absorbed.drop_append_byte {s u : State} {M : List Byte} {t : Nat} (h : Absorbed s M t u) (b : Byte) :
    (M ++ [b]).drop (t * rate s.cfg) = u.q.take u.c ++ [b] := by
  rw [List.drop_append_of_le_length (h.length ▸ Nat.le_add_right _ _), h.queued]

theorem Absorbed.length_append_byte {s u : State} {M : List Byte} {t : Nat} (h : Absorbed s M t u) (b : Byte) :
    (M ++ [b]).length = t * rate s.cfg + (u.c + 1) := by
  rw [List.length_append, List.length_singleton, h.length, Nat.add_assoc]

theorem Absorbed.words_append_byte {s u : State} {M : List Byte} {t : Nat} (h : Absorbed s M t u) (b : Byte) :
    u.w = messageWords s.perm (rate s.cfg) (M ++ [b]) t := by
  rw [messageWords_append _ _ (h.length ▸ Nat.le_add_right _ _), h.words]

/-- A byte that does not fill the queue joins the queued ones. -/
theorem absorbed_below {s u : State} {M : List Byte} {t : Nat} (h : Absorbed s M t u) (b : Byte)
    (hbelow : u.c + 1 ≠ rate u.cfg) : Absorbed s (M ++ [b]) t (absorbByte b u) := by
  have hcontrol := sameControl_trans h.control (absorbByte_sameControl b u)
  have hshape := absorbByte_shape b h.shape
  obtain ⟨-, hq, hc⟩ := h.shape
  rw [absorbByte_below b hbelow] at hcontrol hshape ⊢
  exact
    { control := hcontrol
      shape := hshape
      length := h.length_append_byte b
      queued := (take_set_below b (hq ▸ hc)).trans (h.drop_append_byte b).symm
      words := h.words_append_byte b
      calls := h.calls }

/-- A byte that fills the queue completes block `t`, and leaves nothing queued. -/
theorem absorbed_last {s u : State} {M : List Byte} {t : Nat} (h : Absorbed s M t u) (b : Byte)
    (hlast : u.c + 1 = rate u.cfg) : Absorbed s (M ++ [b]) (t + 1) (absorbByte b u) := by
  have hcontrol := sameControl_trans h.control (absorbByte_sameControl b u)
  have hshape := absorbByte_shape b h.shape
  have hlength : (M ++ [b]).length = (t + 1) * rate s.cfg := by
    rw [h.length_append_byte, hlast, h.control.cfg, Nat.succ_mul]
  have hblock : ((M ++ [b]).drop (t * rate s.cfg)).take (rate s.cfg) = u.q.take u.c ++ [b] := by
    rw [List.take_of_length_le, h.drop_append_byte]
    rw [List.length_drop, hlength, Nat.succ_mul, Nat.add_sub_cancel_left]
  rw [absorbByte_completes b h.shape hlast] at hcontrol hshape ⊢
  exact
    { control := hcontrol
      shape := hshape
      length := hlength
      queued := by rw [List.take_zero, List.drop_of_length_le hlength.le]
      words := by
        rw [messageWords, hblock, ← h.words_append_byte b, State.perm_congr h.control.provider h.control.cfg]
      calls := by rw [h.calls, Nat.add_assoc] }

theorem absorbed_append_byte {s u : State} {M : List Byte} {t : Nat} (h : Absorbed s M t u) (b : Byte) :
    ∃ t', Absorbed s (M ++ [b]) t' (absorbByte b u) := by
  by_cases hlast : u.c + 1 = rate u.cfg
  · exact ⟨t + 1, absorbed_last h b hlast⟩
  · exact ⟨t, absorbed_below h b hlast⟩

theorem absorbed_append {s u : State} {M : List Byte} {t : Nat} (h : Absorbed s M t u) (N : List Byte) :
    ∃ t', Absorbed s (M ++ N) t' (absorbBytes N u) := by
  induction N generalizing M t u with
  | nil => exact ⟨t, by rwa [List.append_nil]⟩
  | cons b N ih =>
    obtain ⟨t', h'⟩ := absorbed_append_byte h b
    rw [List.append_cons, absorbBytes_cons]
    exact ih h'

/-- The cursor of a good shape makes the number of blocks the quotient of the message's length by RATE. -/
theorem Absorbed.div_mod {s u : State} {M : List Byte} {t : Nat} (h : Absorbed s M t u) :
    M.length / rate s.cfg = t ∧ M.length % rate s.cfg = u.c := by
  obtain ⟨-, -, hc⟩ := h.shape
  rw [h.control.cfg] at hc
  rw [h.length, Nat.mul_comm, Nat.mul_add_div (by omega), Nat.mul_add_mod, Nat.div_eq_of_lt hc, Nat.mod_eq_of_lt hc]
  exact ⟨rfl, rfl⟩

/-- Settles O24: every byte keeps `Absorbed`, whose block count is the quotient in the statement. -/
theorem absorbedMessageState : Obligations.AbsorbedMessageState := by
  intro s M hlegal hw hq hc
  obtain ⟨t, h⟩ := absorbed_append (absorbed_nil hlegal hw hq hc) M
  rw [List.nil_append] at h
  obtain ⟨hdiv, hmod⟩ := h.div_mod
  rw [hdiv, hmod]
  exact ⟨_, execAll_absorbSeq M s, rfl, h.queued, h.words, h.calls⟩

/-! ## SQUEEZEs between two sequences (R87) -/

/-- Two states that differ in the outputs and the count of permutation calls at most. -/
def SameButOutput (s t : State) : Prop := t = { s with out := t.out, permCalls := t.permCalls }

theorem sameButOutput_refl (s : State) : SameButOutput s s := rfl

theorem sameButOutput_trans {s t u : State} (h : SameButOutput s t) (h' : SameButOutput t u) : SameButOutput s u := by
  rw [SameButOutput, h', h]

theorem squeezeOp_sameButOutput (L : Nat) (p : Byte) (s : State) : SameButOutput s (squeezeOp L p s) := rfl

theorem absorbByte_sameButOutput {s t : State} (b : Byte) (h : SameButOutput s t) :
    SameButOutput (absorbByte b s) (absorbByte b t) := by
  rw [h]
  by_cases hlast : s.c + 1 = rate s.cfg
  · rw [absorbByte_last b hlast, absorbByte_last (s := { s with out := t.out, permCalls := t.permCalls }) b hlast]
    rfl
  · rw [absorbByte_below b hlast, absorbByte_below (s := { s with out := t.out, permCalls := t.permCalls }) b hlast]
    rfl

theorem absorbBytes_sameButOutput {s t : State} (M : List Byte) (h : SameButOutput s t) :
    SameButOutput (absorbBytes M s) (absorbBytes M t) := by
  induction M generalizing s t with
  | nil => exact h
  | cons b M ih => exact ih (absorbByte_sameButOutput b h)

/-- Each of the four forms has a request (30_encoding R59, R60). -/
theorem exists_squeezeRequest {i : Instr} (s : State) (h : isSqueeze i = true) :
    ∃ L p, squeezeRequest s i = some (L, p) := by
  rcases instr_cases s i with ⟨b, rfl⟩ | hr | rfl
  · exact Bool.noConfusion h
  · exact hr
  · exact Bool.noConfusion h

theorem execAll_squeezes {sq : List Instr} (s : State) (h : ∀ i ∈ sq, isSqueeze i = true) :
    ∃ t, execAll sq s = .next t ∧ SameButOutput s t := by
  induction sq generalizing s with
  | nil => exact ⟨s, rfl, sameButOutput_refl s⟩
  | cons i sq ih =>
    obtain ⟨hi, hsq⟩ := List.forall_mem_cons.1 h
    obtain ⟨L, p, hr⟩ := exists_squeezeRequest s hi
    obtain ⟨t, ht, hst⟩ := ih (squeezeOp L p s) hsq
    exact ⟨t, (execAll_cons sq (exec_of_squeezeRequest hr)).trans ht,
      sameButOutput_trans (squeezeOp_sameButOutput L p s) hst⟩

/-- Settles O25: the SQUEEZEs keep all that ABSORB reads, so the second sequence does what it would have done without them. -/
theorem squeezesDoNotDisturbAbsorption : Obligations.SqueezesDoNotDisturbAbsorption := by
  intro s M1 M2 sq hsq
  obtain ⟨t, ht, hsame⟩ := execAll_squeezes (absorbBytes M1 s) hsq
  refine ⟨absorbBytes M2 t, absorbBytes (M1 ++ M2) s, ?_, execAll_absorbSeq _ s, ?_⟩
  · rw [List.append_assoc, execAll_append _ (execAll_absorbSeq M1 s), execAll_append _ ht, execAll_absorbSeq]
  · rw [absorbBytes_append]
    exact absorbBytes_sameButOutput M2 hsame

end Sys2Proof.Machine

/-! SQUEEZE (42_squeeze): the padded snapshot byte by byte, the bytes a SQUEEZE emits, what it leaves unchanged, and that no
SQUEEZE changes what a later one emits. -/

namespace Sys2Proof.Machine

/-! ## The padded snapshot (R91 to R93) -/

/-- The first padding step keeps the absorbed bytes and clears every other (R91). -/
theorem byteAt_zeroFrom {c : Nat} {q : List Byte} (r : Nat) (hq : c ≤ q.length) (j : Nat) :
    byteAt (zeroFrom c r q) j = if j < c then byteAt q j else 0#8 := by
  have htake : (q.take c).length = c := List.length_take_of_le hq
  by_cases hj : j < c
  · rw [if_pos hj, zeroFrom, byteAt, List.getD_append _ _ _ _ (htake.symm ▸ hj)]
    simp [byteAt, hj]
  · rw [if_neg hj, zeroFrom, byteAt, List.getD_append_right _ _ _ _ (htake.symm ▸ Nat.le_of_not_lt hj)]
    exact byteAt_zeros _ _

theorem byteAt_orByte_self {i : Nat} {q : List Byte} (v : Byte) (h : i < q.length) :
    byteAt (orByte i v q) i = byteAt q i ||| v := by
  simp [byteAt, orByte, h]

theorem byteAt_orByte_of_ne {i j : Nat} (v : Byte) (q : List Byte) (h : j ≠ i) :
    byteAt (orByte i v q) j = byteAt q j := by
  simp [byteAt, orByte, h.symm]

/-- The first two padding steps: the absorbed bytes, the padding byte at the cursor, then zeros (R91, R92). -/
theorem byteAt_orByte_zeroFrom {c r : Nat} {q : List Byte} (p : Byte) (hc : c < r) (hq : q.length = r) (j : Nat) :
    byteAt (orByte c p (zeroFrom c r q)) j = if j < c then byteAt q j else if j = c then p else 0#8 := by
  have hlen : (zeroFrom c r q).length = r := zeroFrom_length hc.le (hq ▸ hc.le)
  by_cases hj : j = c
  · subst hj
    rw [byteAt_orByte_self p (hlen.symm ▸ hc), byteAt_zeroFrom r (hq ▸ hc.le), if_neg (Nat.lt_irrefl j), BitVec.zero_or,
      if_neg (Nat.lt_irrefl j), if_pos rfl]
  · rw [byteAt_orByte_of_ne p _ hj, byteAt_zeroFrom r (hq ▸ hc.le), if_neg hj]

/-- Settles O27: each padding step writes what `byteAt_zeroFrom` and the two facts about `orByte` say; at the last byte the
second step left `p` when the cursor stands there, and zero otherwise. -/
theorem paddedSnapshotBytes : Obligations.PaddedSnapshotBytes := by
  intro s p hs
  obtain ⟨-, hq, hc⟩ := hs
  intro r q1 q2 q3
  have hcq : s.c ≤ s.q.length := hq ▸ hc.le
  have hlen : q1.length = r := zeroFrom_length hc.le hcq
  have hq1 : ∀ j, byteAt q1 j = if j < s.c then byteAt s.q j else 0#8 := byteAt_zeroFrom r hcq
  have hq2 : ∀ j, byteAt q2 j = if j < s.c then byteAt s.q j else if j = s.c then p else 0#8 :=
    byteAt_orByte_zeroFrom p hc hq
  have hlast : byteAt q3 (r - 1) = byteAt q2 (r - 1) ||| 0x80#8 :=
    byteAt_orByte_self _ (by rw [orByte_length, hlen]; omega)
  refine ⟨⟨hlen, fun j hj _ => ?_, fun j hj => ?_⟩,
    ⟨byteAt_orByte_self p (hlen.symm ▸ hc), ?_, fun j => byteAt_orByte_of_ne p q1⟩,
    padQueue_length p hc.le hcq, hlast, fun j => byteAt_orByte_of_ne _ q2, fun hbelow => ?_, fun hat => ?_⟩
  · rw [hq1, if_neg (by omega)]
  · rw [hq1, if_pos hj]
  · rw [hq2, if_neg (Nat.lt_irrefl _), if_pos rfl]
  · rw [hlast, hq2, if_neg (by omega), if_neg (by omega), BitVec.zero_or]
  · rw [hlast, hq2, if_neg (by omega), if_pos hat.symm]

theorem byteAt_padQueue {s : State} (p : Byte) (hs : s.Shape) (j : Nat) :
    byteAt (padQueue s.c (rate s.cfg) p s.q) j = paddedByte s p j := by
  obtain ⟨-, hq, hc⟩ := hs
  have hlen : (zeroFrom s.c (rate s.cfg) s.q).length = rate s.cfg := zeroFrom_length hc.le (hq ▸ hc.le)
  rw [padQueue, paddedByte, ← byteAt_orByte_zeroFrom p hc hq]
  by_cases hj : j = rate s.cfg - 1
  · rw [if_pos hj, hj, byteAt_orByte_self _ (by rw [orByte_length, hlen]; omega)]
  · rw [if_neg hj, byteAt_orByte_of_ne _ _ hj, BitVec.or_zero]

/-- The three padding steps build the block that the byte formula describes (R91 to R93). -/
theorem padQueue_eq_paddedBlock {s : State} (p : Byte) (hs : s.Shape) :
    padQueue s.c (rate s.cfg) p s.q = paddedBlock s p := by
  have ⟨_, hq, hc⟩ := hs
  have hblock : (paddedBlock s p).length = rate s.cfg := by rw [paddedBlock, List.length_map, List.length_range]
  refine block_ext ((padQueue_length p hc.le (hq ▸ hc.le)).trans hblock.symm) fun j hj => ?_
  rw [hblock] at hj
  rw [byteAt_padQueue p hs]
  simp [byteAt, paddedBlock, hj]

/-! ## What a SQUEEZE emits (R89, R95, R96) -/

/-- The output loop emits the bytes of the formula (R95). -/
theorem squeezed_bytes {s : State} (L : Nat) (p : Byte) (hs : s.Shape) : (squeezed L p s).bytes = outBytes s L p := by
  have ⟨hlegal, _, _⟩ := hs
  obtain ⟨-, hmin, hmax⟩ := rate_of_legal hlegal
  have hlen := squeezed_length L p hlegal
  refine List.ext_getElem? fun i => ?_
  by_cases hi : i < L
  · rw [squeezed, squeezeLoop_getElem? _ (by omega) hmax L _ 0 i (by omega) (by omega), snapshot, padQueue_eq_paddedBlock p hs]
    simp [outBytes, outByte, hi]
  · rw [List.getElem?_eq_none (by omega), List.getElem?_eq_none (by simpa [outBytes] using hi)]

theorem squeezed_calls {s : State} (L : Nat) (p : Byte) (hs : s.Shape) :
    (squeezed L p s).calls = spans (rate s.cfg) L := by
  obtain ⟨hlegal, -, -⟩ := hs
  exact squeezeLoop_calls _ (rate_pos_of_legal hlegal) L _ 0 (Nat.sub_le L 0)

theorem squeezeOp_eq_afterSqueeze {s : State} (L : Nat) (p : Byte) (hs : s.Shape) :
    squeezeOp L p s = afterSqueeze s L p := by
  rw [squeezeOp_eq, squeezed_bytes L p hs, squeezed_calls L p hs, afterSqueeze]

/-- What every form of SQUEEZE does to a state of good shape, by what it asks for (R95, R100). -/
theorem exec_eq_afterSqueeze {s : State} {i : Instr} {L : Nat} {p : Byte} (hs : s.Shape)
    (h : squeezeRequest s i = some (L, p)) : exec i s = .next (afterSqueeze s L p) := by
  rw [exec_of_squeezeRequest h, squeezeOp_eq_afterSqueeze L p hs]

/-- Settles O28: each form by its request. -/
theorem squeezeOutputs : Obligations.SqueezeOutputs :=
  fun _ hs => ⟨fun _ => exec_eq_afterSqueeze hs rfl, fun _ _ => exec_eq_afterSqueeze hs rfl, exec_eq_afterSqueeze hs rfl,
    fun _ => exec_eq_afterSqueeze hs rfl⟩

theorem squeezeOp_zero (p : Byte) (s : State) : squeezeOp 0 p s = { s with out := s.out ++ [[]] } := rfl

/-- Settles O29: each form asks for length 0, DEF because CAPACITY is 0, and the loop is not entered. -/
theorem squeezeZeroLength : Obligations.SqueezeZeroLength := by
  refine fun s padv => ⟨rfl, rfl, fun hcap => ?_⟩
  have hdef : s.cfg.cap.toNat / 8 = 0 := by rw [hcap]; rfl
  constructor
  · rw [exec_of_squeezeRequest (L := 0) (p := s.cfg.pad) (by rw [squeezeRequest, hdef]), squeezeOp_zero]
  · rw [exec_of_squeezeRequest (L := 0) (p := padv) (by rw [squeezeRequest, hdef]), squeezeOp_zero]

/-- Settles O30: every form is `squeezeOp` with its request, which writes `OUT` and the count alone. -/
theorem squeezeFrame : Obligations.SqueezeFrame := by
  intro s i hi
  obtain ⟨L, p, hr⟩ := exists_squeezeRequest s hi
  exact ⟨squeezeOp L p s, (squeezed L p s).bytes, exec_of_squeezeRequest hr, rfl, Nat.le_add_right _ _,
    rfl, rfl, rfl, rfl, rfl, rfl, rfl, rfl, rfl, rfl⟩

/-! ## One SQUEEZE and another (R99, R101, R102) -/

/-- The byte formula does not read what a SQUEEZE writes (R100). -/
theorem outBytes_afterSqueeze (s : State) (L L' : Nat) (p p' : Byte) :
    outBytes (afterSqueeze s L' p') L p = outBytes s L p := rfl

/-- Settles O31: the second SQUEEZE reads its padding byte from `PAD`, which the first did not write. -/
theorem overrideLastsOneCommand : Obligations.OverrideLastsOneCommand := by
  intro s padv len len' hs
  refine ⟨afterSqueeze s len.toNat padv, _, exec_eq_afterSqueeze hs rfl,
    exec_eq_afterSqueeze (s := afterSqueeze s len.toNat padv) hs rfl, rfl, rfl, ?_⟩
  exact List.append_assoc s.out [_] [_]

theorem outBytes_take (s : State) (p : Byte) {L1 L2 : Nat} (h : L1 ≤ L2) :
    (outBytes s L2 p).take L1 = outBytes s L1 p := by
  rw [outBytes, ← List.map_take, List.take_range, Nat.min_eq_left h, outBytes]

/-- Settles O33: byte `i` of the formula does not depend on the length. -/
theorem squeezePrefixes : Obligations.SqueezePrefixes := by
  intro s i j L1 L2 p hs hi hj hle
  refine ⟨outBytes s L1 p, outBytes s L2 p, _, _, exec_eq_afterSqueeze hs hi, exec_eq_afterSqueeze hs hj, rfl, rfl, ?_,
    (outBytes_take s p hle).symm⟩
  rw [outBytes, List.length_map, List.length_range]

theorem SameButOutput.cfg {s t : State} (h : SameButOutput s t) : t.cfg = s.cfg := by rw [h]

theorem squeezed_sameButOutput {s t : State} (L : Nat) (p : Byte) (h : SameButOutput s t) :
    squeezed L p t = squeezed L p s := by
  rw [h]
  exact squeezed_congr L p rfl rfl rfl rfl rfl

/-- From two states that differ in the outputs and the count at most, a command emits the same bytes, and the states it answers
differ in no more. -/
theorem exec_sameButOutput {s t : State} (i : Instr) (h : SameButOutput s t) :
    ∃ s' t' emitted, exec i s = .next s' ∧ exec i t = .next t' ∧ SameButOutput s' t' ∧
      s'.out = s.out ++ emitted ∧ t'.out = t.out ++ emitted := by
  rcases instr_cases s i with ⟨b, rfl⟩ | ⟨L, p, hr⟩ | rfl
  · refine ⟨_, _, [], rfl, rfl, absorbByte_sameButOutput b h, ?_, ?_⟩ <;> rw [absorbByte_out, List.append_nil]
  · refine ⟨_, _, [(squeezed L p s).bytes], exec_of_squeezeRequest hr,
      exec_of_squeezeRequest (squeezeRequest_congr h.cfg.symm i ▸ hr), ?_, rfl, ?_⟩
    · rw [SameButOutput, squeezeOp_eq, squeezeOp_eq, h]
    · rw [← squeezed_sameButOutput L p h, squeezeOp_eq]
  · refine ⟨_, _, [], rfl, rfl, ?_, (List.append_nil _).symm, (List.append_nil _).symm⟩
    rw [SameButOutput, zeroSponge_eq, zeroSponge_eq, h]

/-- The same of a list of commands. -/
theorem execAll_sameButOutput {s t : State} (is : List Instr) (h : SameButOutput s t) :
    ∃ s' t' emitted, execAll is s = .next s' ∧ execAll is t = .next t' ∧ SameButOutput s' t' ∧
      s'.out = s.out ++ emitted ∧ t'.out = t.out ++ emitted := by
  induction is generalizing s t with
  | nil => exact ⟨s, t, [], rfl, rfl, h, (List.append_nil _).symm, (List.append_nil _).symm⟩
  | cons i is ih =>
    obtain ⟨s₁, t₁, e₁, hs₁, ht₁, h₁, hos₁, hot₁⟩ := exec_sameButOutput i h
    obtain ⟨s', t', e, hs', ht', h', hos, hot⟩ := ih h₁
    refine ⟨s', t', e₁ ++ e, (execAll_cons is hs₁).trans hs', (execAll_cons is ht₁).trans ht', h', ?_, ?_⟩
    · rw [hos, hos₁, List.append_assoc]
    · rw [hot, hot₁, List.append_assoc]

/-- A last SQUEEZE emits what the state before it gives for its request. -/
theorem execAll_append_squeeze {is : List Instr} {j : Instr} {s u : State} {L : Nat} {p : Byte}
    (h : execAll is s = .next u) (hr : squeezeRequest u j = some (L, p)) :
    execAll (is ++ [j]) s = .next (squeezeOp L p u) := by
  rw [execAll_append [j] h, execAll_cons [] (exec_of_squeezeRequest hr), execAll]

/-- A SQUEEZE ahead of any commands and a last SQUEEZE puts its own bytes into the outputs and changes none of theirs; `u` is
the state before the last SQUEEZE when the first is left out (R101). -/
theorem execAll_squeeze_append_squeeze {is : List Instr} {i j : Instr} {s u : State} {L L' : Nat} {p p' : Byte}
    (hi : squeezeRequest s i = some (L, p)) (hu : execAll is s = .next u) (hj : squeezeRequest u j = some (L', p')) :
    ∃ t mid, execAll ([i] ++ is ++ [j]) s = .next t ∧ u.out = s.out ++ mid ∧
      t.out = s.out ++ [(squeezed L p s).bytes] ++ mid ++ [(squeezed L' p' u).bytes] := by
  obtain ⟨u', v, mid, hu', hv, hsame, hout, hout'⟩ := execAll_sameButOutput is (squeezeOp_sameButOutput L p s)
  cases hu.symm.trans hu'
  have hiv : execAll ([i] ++ is) s = .next v := (execAll_cons is (exec_of_squeezeRequest hi)).trans hv
  refine ⟨_, mid, execAll_append_squeeze hiv (squeezeRequest_congr hsame.cfg.symm j ▸ hj), hout, ?_⟩
  rw [squeezeOp_eq, squeezed_sameButOutput L' p' hsame, hout', squeezeOp_eq]

theorem absorbBytes_out (M : List Byte) (s : State) : (absorbBytes M s).out = s.out := by
  induction M generalizing s with
  | nil => rfl
  | cons b M ih => rw [absorbBytes_cons, ih, absorbByte_out]

/-- SQUEEZEs alone leave what a request means and what it emits (R101). -/
theorem squeezed_eq_of_request_eq {s u : State} {i j : Instr} {L L' : Nat} {p p' : Byte} (h : SameButOutput s u)
    (hi : squeezeRequest s i = some (L, p)) (hj : squeezeRequest u j = some (L', p'))
    (hij : squeezeRequest s i = squeezeRequest s j) : squeezed L p s = squeezed L' p' u := by
  rw [squeezeRequest_congr h.cfg, ← hij, hi] at hj
  cases hj
  exact (squeezed_sameButOutput L p h).symm

/-- A SQUEEZE between two byte sequences leaves nothing behind in the absorption: from the state after them a last SQUEEZE
emits what it emits without the first (R101). -/
theorem execAll_squeeze_between_absorbs (s : State) (M1 M2 : List Byte) {i j : Instr} (hi : isSqueeze i = true)
    (hj : isSqueeze j = true) :
    ∃ x y t u, execAll (absorbSeq M1 ++ [i] ++ absorbSeq M2 ++ [j]) s = .next t ∧
      execAll (absorbSeq (M1 ++ M2) ++ [j]) s = .next u ∧ t.out = s.out ++ [x, y] ∧ u.out = s.out ++ [y] := by
  have hM1 := execAll_absorbSeq M1 s
  have hM2 := execAll_absorbSeq M2 (absorbBytes M1 s)
  have hM := execAll_absorbSeq (M1 ++ M2) s
  rw [absorbBytes_append] at hM
  obtain ⟨L, p, hri⟩ := exists_squeezeRequest (absorbBytes M1 s) hi
  obtain ⟨L', p', hrj⟩ := exists_squeezeRequest (absorbBytes M2 (absorbBytes M1 s)) hj
  obtain ⟨t, mid, ht, hmid, hout⟩ := execAll_squeeze_append_squeeze hri hM2 hrj
  have hnil : mid = [] := by rwa [absorbBytes_out, List.self_eq_append_right] at hmid
  refine ⟨(squeezed L p (absorbBytes M1 s)).bytes, (squeezed L' p' (absorbBytes M2 (absorbBytes M1 s))).bytes, t, _, ?_,
    execAll_append_squeeze hM hrj, ?_, ?_⟩
  · rw [List.append_assoc, List.append_assoc, execAll_append _ hM1, ← List.append_assoc, ht]
  · rw [hout, hnil, absorbBytes_out, List.append_nil, List.append_assoc, List.singleton_append]
  · rw [squeezeOp_eq, absorbBytes_out, absorbBytes_out]

/-- Settles O32: the run with the first SQUEEZE simulates the run without it (`execAll_squeeze_append_squeeze`); the clause
about absorption is `execAll_squeeze_between_absorbs` from a state with no output. -/
theorem squeezeRepeatable : Obligations.SqueezeRepeatable := by
  refine ⟨fun s is i j hi hj => ?_,
    fun cfg P M1 M2 _ _ hi hj => execAll_squeeze_between_absorbs (State.fresh cfg P) M1 M2 hi hj⟩
  obtain ⟨u, hu⟩ := execAll_total is s
  obtain ⟨L, p, hri⟩ := exists_squeezeRequest s hi
  obtain ⟨L', p', hrj⟩ := exists_squeezeRequest u hj
  obtain ⟨t, mid, ht, hmid, hout⟩ := execAll_squeeze_append_squeeze hri hu hrj
  refine ⟨_, mid, _, t, _, ht, execAll_append_squeeze hu hrj, hout, ?_, fun hsq hij => ?_⟩
  · rw [squeezeOp_eq, hmid]
  · obtain ⟨u', hu', hsame⟩ := execAll_squeezes s hsq
    cases hu.symm.trans hu'
    rw [squeezed_eq_of_request_eq hsame hri hrj hij]

end Sys2Proof.Machine

/-! RESET (43_reset): what it writes and leaves unchanged, and that a command run after it does what it does from a fresh
instance. -/

namespace Sys2Proof.Machine

/-! ## One RESET (R105, R106, R108) -/

theorem exec_reset (s : State) : exec .reset s = .next (zeroSponge s) := rfl

/-- A sponge already zeroed stays as it is: the rate it is zeroed to is kept (R105). -/
theorem zeroSponge_zeroSponge (s : State) : zeroSponge (zeroSponge s) = zeroSponge s := rfl

/-- Settles O34: the state is `zeroSponge_eq`, and zeroing it again keeps it. -/
theorem resetZeroesTheSponge : Obligations.ResetZeroesTheSponge := by
  refine ⟨fun s => ⟨zeroSponge s, zeroSponge_eq s, exec_reset s, ?_⟩, by decide⟩
  rw [exec_reset, zeroSponge_zeroSponge]

/-- Settles O35: like every command RESET keeps the control part, and its three writes leave the outputs and the count. -/
theorem resetFrame : Obligations.ResetFrame := by
  intro s
  have hctl := exec_sameControl (exec_reset s)
  refine ⟨zeroSponge s, exec_reset s, hctl.cfg, hctl.status, hctl.errcmd, ?_, hctl.provider, hctl.n, hctl.cmds, hctl.faults, ?_⟩
  · rw [zeroSponge_eq]
  · rw [zeroSponge_eq]

/-! ## Commands after a RESET (R107) -/

/-- Two states equal in all that an accepted command reads; the outputs, the error record, the stream and the counts may
differ. -/
structure SameSponge (s t : State) : Prop where
  w : s.w = t.w
  q : s.q = t.q
  c : s.c = t.c
  cfg : s.cfg = t.cfg
  provider : s.provider = t.provider

theorem zeroSponge_sameSponge_fresh (s : State) : SameSponge (zeroSponge s) (State.fresh s.cfg s.provider) := by
  constructor <;> rfl

theorem absorbByte_sameSponge {s t : State} (b : Byte) (h : SameSponge s t) :
    SameSponge (absorbByte b s) (absorbByte b t) := by
  obtain ⟨hw, hq, hc, hcfg, hp⟩ := h
  by_cases hlast : s.c + 1 = rate s.cfg
  · rw [absorbByte_last b hlast, absorbByte_last b (by rwa [← hc, ← hcfg])]
    exact ⟨by simp only [hw, hq, hc, State.perm_congr hp hcfg], by simp only [hq, hc], rfl, hcfg, hp⟩
  · rw [absorbByte_below b hlast, absorbByte_below b (by rwa [← hc, ← hcfg])]
    exact ⟨hw, by simp only [hq, hc], by simp only [hc], hcfg, hp⟩

theorem squeezed_sameSponge {s t : State} (L : Nat) (p : Byte) (h : SameSponge s t) : squeezed L p s = squeezed L p t :=
  squeezed_congr L p (by rw [h.q, h.c]) h.c h.w h.cfg h.provider

theorem squeezeOp_sameSponge {s t : State} (L : Nat) (p : Byte) (h : SameSponge s t) :
    SameSponge (squeezeOp L p s) (squeezeOp L p t) :=
  ⟨h.w, h.q, h.c, h.cfg, h.provider⟩

theorem zeroSponge_sameSponge {s t : State} (h : SameSponge s t) : SameSponge (zeroSponge s) (zeroSponge t) := by
  refine ⟨rfl, ?_, rfl, h.cfg, h.provider⟩
  rw [zeroSponge_eq, zeroSponge_eq, h.cfg]

/-- From two states with the same sponge, a command emits the same bytes and leaves the same sponge. -/
theorem exec_sameSponge {s t : State} (i : Instr) (h : SameSponge s t) :
    ∃ s' t' emitted, exec i s = .next s' ∧ exec i t = .next t' ∧ SameSponge s' t' ∧
      s'.out = s.out ++ emitted ∧ t'.out = t.out ++ emitted := by
  rcases instr_cases s i with ⟨b, rfl⟩ | ⟨L, p, hr⟩ | rfl
  · refine ⟨_, _, [], rfl, rfl, absorbByte_sameSponge b h, ?_, ?_⟩ <;> rw [absorbByte_out, List.append_nil]
  · refine ⟨_, _, [(squeezed L p s).bytes], exec_of_squeezeRequest hr,
      exec_of_squeezeRequest (squeezeRequest_congr h.cfg i ▸ hr), squeezeOp_sameSponge L p h, rfl, ?_⟩
    rw [squeezed_sameSponge L p h, squeezeOp_eq]
  · exact ⟨_, _, [], exec_reset s, exec_reset t, zeroSponge_sameSponge h, (List.append_nil _).symm,
      (List.append_nil _).symm⟩

/-- The same of a list of commands. -/
theorem execAll_sameSponge {s t : State} (is : List Instr) (h : SameSponge s t) :
    ∃ s' t' emitted, execAll is s = .next s' ∧ execAll is t = .next t' ∧ SameSponge s' t' ∧
      s'.out = s.out ++ emitted ∧ t'.out = t.out ++ emitted := by
  induction is generalizing s t with
  | nil => exact ⟨s, t, [], rfl, rfl, h, (List.append_nil _).symm, (List.append_nil _).symm⟩
  | cons i is ih =>
    obtain ⟨s₁, t₁, first, hs₁, ht₁, h₁, hsOut₁, htOut₁⟩ := exec_sameSponge i h
    obtain ⟨s', t', later, hs', ht', h', hsOut, htOut⟩ := ih h₁
    refine ⟨s', t', first ++ later, (execAll_cons is hs₁).trans hs', (execAll_cons is ht₁).trans ht', h', ?_, ?_⟩
    · rw [hsOut, hsOut₁, List.append_assoc]
    · rw [htOut, htOut₁, List.append_assoc]

/-- Settles O36: RESET leaves the sponge of a fresh instance, and from there the two runs keep their sponges equal; the fresh
instance has no earlier output. -/
theorem resetIndependence : Obligations.ResetIndependence := by
  refine ⟨fun s => ?_, fun s is => ?_⟩
  · obtain ⟨hw, hq, hc, -, -⟩ := zeroSponge_sameSponge_fresh s
    exact ⟨zeroSponge s, exec_reset s, hw, hq, hc⟩
  · obtain ⟨t, u, emitted, ht, hu, h, htOut, huOut⟩ := execAll_sameSponge is (zeroSponge_sameSponge_fresh s)
    have huOut : u.out = emitted := huOut
    refine ⟨t, u, (execAll_cons is (exec_reset s)).trans ht, hu, ?_, h.w, h.c, by rw [h.q, h.c]⟩
    rw [htOut, huOut, zeroSponge_eq]

end Sys2Proof.Machine

/-! Errors (60_exceptions): what a rejection writes and leaves, what no later step undoes, and what `ERR = 0` at the end of a
run says of its words. -/

namespace Sys2Proof.Machine

/-! ## The bits of `STATUS` after a rejection (10_state R28, 60_exceptions R111) -/

/-- The bits of a cause code in its place (10_state R28). -/
theorem getLsbD_causeCode_place (k : Cause) : ∀ j < 32, ((causeCode k).zeroExtend 32 <<< 4).getLsbD j =
    (decide (4 ≤ j ∧ j < 8) && (causeCode k).getLsbD (j - 4)) := by
  cases k <;> decide

/-- The field `CAUSE` is bits 4 to 7, and writing it keeps the other bits. -/
theorem getLsbD_setCause (st : BitVec 32) (k : Cause) {j : Nat} (hj : j < 32) :
    (setCause st k).getLsbD j = if 4 ≤ j ∧ j < 8 then (causeCode k).getLsbD (j - 4) else st.getLsbD j := by
  have hmask : ∀ j < 32, (0xFFFFFF0F#32).getLsbD j = !decide (4 ≤ j ∧ j < 8) := by decide
  rw [setCause, BitVec.getLsbD_or, BitVec.getLsbD_and, hmask j hj, getLsbD_causeCode_place k j hj]
  by_cases hcause : 4 ≤ j ∧ j < 8 <;> simp [hcause]

theorem getLsbD_setErr {j : Nat} (st : BitVec 32) (h : j ≠ 0) : (setErr st).getLsbD j = st.getLsbD j := by
  simp [setErr, h]

theorem statusErr_statusReject (k : Cause) (st : BitVec 32) : statusErr (statusReject k st) = true := by
  simp [statusErr, statusReject, setErr]

/-- The first rejection writes `CAUSE`. -/
theorem statusCause_statusReject (k : Cause) {st : BitVec 32} (h : statusErr st = false) :
    statusCause (statusReject k st) = causeCode k := by
  ext i hi
  have hfield : 4 ≤ 4 + i ∧ 4 + i < 8 := by omega
  rw [statusCause, BitVec.getElem_extractLsb', statusReject, h, if_neg Bool.false_ne_true, getLsbD_setErr _ (by omega),
    getLsbD_setCause st k (by omega), if_pos hfield, Nat.add_sub_cancel_left, BitVec.getLsbD_eq_getElem]

/-- A later rejection writes nothing. -/
theorem statusReject_of_err (k : Cause) {st : BitVec 32} (h : statusErr st = true) : statusReject k st = st := by
  rw [statusReject, if_pos h]
  refine BitVec.eq_of_getLsbD_eq fun j _ => ?_
  by_cases hj : j = 0
  · subst hj
    simpa [setErr, statusErr] using h.symm
  · exact getLsbD_setErr st hj

theorem getLsbD_statusReject {j : Nat} (k : Cause) (st : BitVec 32) (h0 : j ≠ 0) (h : j < 4 ∨ 8 ≤ j) :
    (statusReject k st).getLsbD j = st.getLsbD j := by
  by_cases hj : j < 32
  · rw [statusReject, getLsbD_setErr _ h0]
    split
    · rfl
    · rw [getLsbD_setCause st k hj, if_neg (by omega)]
  · rw [BitVec.getLsbD_of_ge _ _ (by omega), BitVec.getLsbD_of_ge _ _ (by omega)]

theorem errcmdReject_of_noErr (cw : Command) {st : BitVec 32} (old : BitVec 64) (h : statusErr st = false) :
    errcmdReject cw st old = cw := by
  rw [errcmdReject, h, if_neg Bool.false_ne_true]

theorem errcmdReject_of_err (cw : Command) {st : BitVec 32} (old : BitVec 64) (h : statusErr st = true) :
    errcmdReject cw st old = old := if_pos h

/-! ## The first rejection stays on record (R111) -/

/-- Once `ERR` is 1 no step writes the error record. -/
theorem step_keeps_record_of_err {s t : State} (h : statusErr s.status = true) (hs : step s = .next t) :
    t.status = s.status ∧ t.errcmd = s.errcmd := by
  rcases step_next_cases hs with rfl | ⟨cw, rest, i, -, -, hx⟩ | ⟨cw, rest, k, -, -, rfl⟩
  · exact ⟨rfl, rfl⟩
  · exact ⟨(exec_sameControl hx).status, (exec_sameControl hx).errcmd⟩
  · exact ⟨statusReject_of_err k h, errcmdReject_of_err cw s.errcmd h⟩

/-- Settles O37: the step that rejects writes what the lemmas about `statusReject` and `errcmdReject` say, and
`step_keeps_record_of_err` covers every step after it. -/
theorem rejectionRecordsTheFirst : Obligations.RejectionRecordsTheFirst := by
  refine ⟨fun s cw rest k hc hd => ?_, fun s t h hs => ?_, fun cfg p => ⟨rfl, rfl⟩⟩
  · refine ⟨_, step_of_reject hc hd, statusErr_statusReject k s.status, fun h => ?_, fun h => ?_,
      fun j h0 hj => getLsbD_statusReject k s.status h0 hj⟩
    · exact ⟨statusCause_statusReject k h, errcmdReject_of_noErr cw s.errcmd h⟩
    · exact ⟨congrArg statusCause (statusReject_of_err k h), errcmdReject_of_err cw s.errcmd h⟩
  · obtain ⟨hstatus, herrcmd⟩ := step_keeps_record_of_err h hs
    exact ⟨hstatus ▸ h, congrArg statusCause hstatus, herrcmd⟩

/-! ## A rejected word takes one step and leaves the rest as it is (R110, R112, R113) -/

/-- Settles O38: a rejecting step takes the word off the port and runs `rejectCommand`, which writes the error record and the
faults alone (`rejectCommand_eq`). -/
theorem rejectionChangesNothingElse : Obligations.RejectionChangesNothingElse :=
  fun _ _ _ hc => ⟨fun _ hd => ⟨_, step_of_reject hc hd, rfl, rfl, rfl, rfl, rfl, rfl, rfl, rfl⟩,
    fun _ hd => step_of_command hc hd⟩

/-- Settles O39: the step after the rejection takes the next word, as every step with a word on the port does
(`indexCountsAcceptedWords`). -/
theorem rejectionDoesNotStop : Obligations.RejectionDoesNotStop := by
  intro s cw rest k hc hd
  refine ⟨_, step_of_reject hc hd, rfl, rfl, rfl, rfl, fun cw' rest' hrest => ?_⟩
  obtain ⟨u, hu, hn, hcmds⟩ := indexCountsAcceptedWords.1 (rejectCommand s.n cw k (s.accept rest)) cw' rest' hrest
  exact ⟨u, hu, hcmds, hn⟩

/-- Settles O40: only a rejection writes the faults, and it appends. -/
theorem rejectionRecordedAsFault : Obligations.RejectionRecordedAsFault := by
  refine ⟨fun s cw rest k hc hd => ⟨_, step_of_reject hc hd, rfl⟩, fun s t hs => ?_⟩
  rcases step_next_cases hs with rfl | ⟨cw, rest, i, -, -, hx⟩ | ⟨cw, rest, k, -, -, rfl⟩
  · exact ⟨[], (List.append_nil _).symm⟩
  · exact ⟨[], (exec_sameControl hx).faults.trans (List.append_nil _).symm⟩
  · exact ⟨[.commandError s.n k], rfl⟩

/-! ## Every step answers a state (R112, R114) -/

theorem step_total (s : State) : ∃ t, step s = .next t := by
  rcases step_cases s with ⟨-, hs⟩ | ⟨cw, rest, i, -, -, hs⟩ | ⟨cw, rest, k, -, -, hs⟩
  · exact ⟨s, hs⟩
  · rw [hs]
    exact exec_total i (s.accept rest)
  · exact ⟨_, hs⟩

/-- Settles O41: a command always answers, and the flags are among what no command writes (`SameControl`). -/
theorem acceptedCommandsNeverFail : Obligations.AcceptedCommandsNeverFail := by
  refine ⟨fun i s => ?_, step_total⟩
  obtain ⟨t, ht⟩ := exec_total i s
  exact ⟨t, ht, (exec_sameControl ht).status, (exec_sameControl ht).errcmd⟩

/-! ## Runs without a fault (R113; 70_reset R140, R142) -/

/-- A step that takes a word ends without a fault exactly when there was none before it and the word is accepted. -/
theorem step_noFault_iff {s t : State} {cw : Command} {rest : List Command} (hc : s.cmds = cw :: rest)
    (hs : step s = .next t) : t.NoFault ↔ s.NoFault ∧ ∃ i, decode cw = .command i := by
  cases hd : decode cw with
  | command i =>
    have hx : exec i (s.accept rest) = .next t := (step_of_command hc hd).symm.trans hs
    have hstatus : t.status = s.status := (exec_sameControl hx).status
    simp [State.NoFault, hstatus]
  | reject k =>
    rw [step_of_reject hc hd] at hs
    cases hs
    simp [State.NoFault, rejectCommand_eq, statusErr_statusReject]

theorem run_total (k : Nat) (s : State) : ∃ t, Host.Core.run Sys2Proof.core k s = .next t := by
  induction k generalizing s with
  | zero => exact ⟨s, rfl⟩
  | succ k ih =>
    obtain ⟨s', hs'⟩ := step_total s
    rw [run_succ k hs']
    exact ih s'

/-- `run_succ` read backwards, from the state a run ends in. -/
theorem run_succ_next {k : Nat} {s t : State} (h : Host.Core.run Sys2Proof.core (k + 1) s = .next t) :
    ∃ s', step s = .next s' ∧ Host.Core.run Sys2Proof.core k s' = .next t := by
  obtain ⟨s', hs'⟩ := step_total s
  exact ⟨s', hs', run_succ k hs' ▸ h⟩

theorem run_shape {k : Nat} {s t : State} (h : s.Shape) (hr : Host.Core.run Sys2Proof.core k s = .next t) : t.Shape := by
  induction k generalizing s with
  | zero =>
    cases hr
    exact h
  | succ k ih =>
    obtain ⟨s', hs', ht⟩ := run_succ_next hr
    exact ih (step_shape h hs') ht

/-- `step_noFault_iff` for a run over all the words on the port. -/
theorem run_noFault_iff {cws : List Command} {s t : State} (hc : s.cmds = cws)
    (hr : Host.Core.run Sys2Proof.core cws.length s = .next t) :
    t.NoFault ↔ s.NoFault ∧ ∀ cw ∈ cws, ∃ i, decode cw = .command i := by
  induction cws generalizing s with
  | nil =>
    cases hr
    simp
  | cons cw rest ih =>
    obtain ⟨s', hs', ht⟩ := run_succ_next hr
    have hrest : s'.cmds = rest := by
      obtain ⟨u, hu, -, hcmds⟩ := indexCountsAcceptedWords.1 s cw rest hc
      cases hs'.symm.trans hu
      exact hcmds
    rw [ih hrest ht, step_noFault_iff hc hs', List.forall_mem_cons, and_assoc]

theorem runWords_noFault_iff {cws : List Command} {s t : State} (hr : runWords cws s = .next t) :
    t.NoFault ↔ s.NoFault ∧ ∀ cw ∈ cws, ∃ i, decode cw = .command i :=
  run_noFault_iff (s := { s with cmds := cws }) rfl hr

/-- Settles O46: the first clause is `runWords_noFault_iff` from left to right; from right to left it gives the second, with a
cursor that the run keeps in range (`run_shape`). -/
theorem faultFreeRunsAcceptEveryWord : Obligations.FaultFreeRunsAcceptEveryWord := by
  intro cws s
  refine ⟨fun t hr => (runWords_noFault_iff hr).1, fun hshape ⟨hnf, _⟩ hdec => ?_⟩
  obtain ⟨t, hr⟩ := run_total cws.length { s with cmds := cws }
  obtain ⟨-, -, hcursor⟩ : t.Shape := run_shape (s := { s with cmds := cws }) hshape hr
  exact ⟨t, hr, (runWords_noFault_iff hr).2 ⟨hnf, hdec⟩, hcursor⟩

end Sys2Proof.Machine

/-! Reset and hazards (70_reset_and_hazards): what construction sets and refuses, the invariant's base case, the port that
waits, the queue after whole blocks, and the permutation calls of each command. -/

namespace Sys2Proof.Machine

/-! ## Construction (R126, R127) -/

theorem legal_iff (capacity padding rounds : Int) : legal capacity padding rounds = true ↔
    (capacity % 32 = 0 ∧ 0 ≤ capacity ∧ capacity ≤ 768) ∧ (0 ≤ padding ∧ padding ≤ 255) ∧
      (0 ≤ rounds ∧ rounds ≤ 255) := by
  simp only [legal, Bool.and_eq_true, beq_iff_eq, decide_eq_true_eq, and_assoc]

/-- An integer that a register can hold is read back from it. -/
theorem toNat_ofInt_of_lt {width : Nat} {v : Int} (hmin : 0 ≤ v) (hmax : v < 2 ^ width) :
    ((BitVec.ofInt width v).toNat : Int) = v := by
  have hmod : v % ((2 ^ width : Nat) : Int) = v := Int.emod_eq_of_lt hmin (by simpa using hmax)
  rw [BitVec.toNat_ofInt, hmod, Int.toNat_of_nonneg hmin]

/-- Settles O11: `construct` branches on `legal`, each integer of a legal configuration fits its register, and the rest is
what `State.fresh` sets. -/
theorem constructionSetsEveryState : Obligations.ConstructionSetsEveryState := by
  intro capacity padding rounds p
  rw [← legal_iff]
  refine ⟨fun h => ?_, fun h => if_neg h⟩
  obtain ⟨⟨-, hcap, hcapMax⟩, ⟨hpad, hpadMax⟩, hrnd, hrndMax⟩ := (legal_iff _ _ _).1 h
  exact ⟨_, if_pos h, toNat_ofInt_of_lt hcap (by omega), toNat_ofInt_of_lt hpad (by omega),
    toNat_ofInt_of_lt hrnd (by omega), rfl, rfl, rfl, rfl, rfl, rfl, rfl, rfl, rfl⟩

/-! ## The invariant after construction and after a send (R126; 10_state R33, R36) -/

theorem fresh_inv {cfg : Config} (p : Provider) (h : legalConfig cfg = true) : (State.fresh cfg p).Inv :=
  ⟨⟨h, List.length_replicate, rate_pos_of_legal h⟩, (record_iff_of_nil rfl).2 ⟨rfl, rfl⟩⟩

/-- The invariant does not look at the words that wait. -/
theorem send_inv {s : State} (cw : Command) (h : s.Inv) : (send cw s).Inv := h

/-- Settles O47: State.reset is the fresh state of a legal configuration. -/
theorem constructedInstancesMeetInvariant : Obligations.ConstructedInstancesMeetInvariant :=
  ⟨fresh_inv .external (by decide), fun _ p h => fresh_inv p h, fun _ cw h => send_inv cw h⟩

/-! ## An empty port (R128) -/

/-- Settles O43: the other two cases of `step_cases` have a word on the port. -/
theorem waitsWithoutACommand : Obligations.WaitsWithoutACommand := by
  intro s hc
  rcases step_cases s with ⟨-, hs⟩ | ⟨cw, rest, i, hc', -, -⟩ | ⟨cw, rest, k, hc', -, -⟩
  · exact hs
  · cases hc.symm.trans hc'
  · cases hc.symm.trans hc'

/-! ## The queue after whole blocks (R136) -/

theorem orByte_zero_cons (v b : Byte) (q : List Byte) : orByte 0 v (b :: q) = (b ||| v) :: q := rfl

theorem orByte_last (v b : Byte) (q : List Byte) : orByte q.length v (q ++ [b]) = q ++ [b ||| v] := by
  induction q with
  | nil => rfl
  | cons a q ih => exact congrArg (a :: ·) ih

/-- The padded snapshot of an empty queue: the padding byte first, 0x80 last, zeros between (42_squeeze R91 to R93). -/
theorem padQueue_of_empty {r : Nat} (p : Byte) (q : List Byte) (h : 2 ≤ r) :
    padQueue 0 r p q = p :: List.replicate (r - 2) 0#8 ++ [0x80#8] := by
  obtain ⟨m, rfl⟩ := Nat.exists_eq_add_of_le' h
  have hzero : zeroFrom 0 (m + 2) q = 0#8 :: (List.replicate m 0#8 ++ [0#8]) := by
    rw [zeroFrom, List.take_zero, List.nil_append, Nat.sub_zero, List.replicate_succ, List.replicate_succ']
  have hlast : m + 2 - 1 = (p :: List.replicate m 0#8).length := by simp
  rw [padQueue, hzero, orByte_zero_cons, BitVec.zero_or, ← List.cons_append, hlast, orByte_last, BitVec.zero_or,
    Nat.add_sub_cancel]

/-- Settles O26: by `Absorbed.div_mod` the cursor is the length of the message modulo RATE, so the queue is empty. -/
theorem wholeBlocksLeaveAnEmptyQueue : Obligations.WholeBlocksLeaveAnEmptyQueue := by
  intro s M p hlegal hw hq hc hlen
  obtain ⟨t, h⟩ := absorbed_append (absorbed_nil hlegal hw hq hc) M
  rw [List.nil_append] at h
  obtain ⟨-, hmod⟩ := h.div_mod
  have hempty : (absorbBytes M s).c = 0 := hmod.symm.trans hlen
  obtain ⟨-, hrate, -⟩ := rate_of_legal hlegal
  refine ⟨_, execAll_absorbSeq M s, hempty, ?_⟩
  rw [hempty, h.control.cfg, padQueue_of_empty p _ (by omega)]

/-! ## Permutation calls (R138) -/

theorem absorbByte_permCalls (b : Byte) (s : State) :
    (absorbByte b s).permCalls = if s.c + 1 = rate s.cfg then s.permCalls + 1 else s.permCalls := by
  by_cases h : s.c + 1 = rate s.cfg
  · rw [absorbByte_last b h, if_pos h]
  · rw [absorbByte_below b h, if_neg h]

/-- Settles O55: ABSORB by `absorbByte_permCalls`, SQUEEZE by the count of `afterSqueeze`; RESET and a rejection do not write
the count. -/
theorem permutationCallCounts : Obligations.PermutationCallCounts := by
  intro s hs
  have ⟨_, _, hc⟩ := hs
  refine ⟨fun b => ⟨_, rfl, fun hbelow => ?_, fun hlast => ?_⟩, fun i L p hr => ⟨_, exec_eq_afterSqueeze hs hr, rfl⟩,
    ⟨_, exec_reset s, rfl⟩, fun cw rest k hcmds hd => ⟨_, step_of_reject hcmds hd, rfl⟩⟩
  · rw [absorbByte_permCalls, if_neg (by omega)]
  · rw [absorbByte_permCalls, if_pos (by omega)]

end Sys2Proof.Machine

/-! The worked decode table (95_test_vectors V30): the words of commands, and a word of each kind of rejection. -/

namespace Sys2Proof

theorem decode_of_encode_eq {i : Instr} {cw : Command} (h : encode i = cw) : decode cw = .command i :=
  h ▸ decode_encode i

/-- Settles O6: an accepted word of the table is the encoding of its command; of the two rejected ones, the first has `DEF`
with a length that is not zero, and the opcode of the second names no format. -/
theorem workedWordsDecode : Obligations.WorkedWordsDecode := by
  have hlen : ReservedFieldSet 0x0280000000000001#64 :=
    .inr (.inl ⟨by decide, .inr (.inr (.inl ⟨by decide, by decide⟩))⟩)
  have hopcode : ¬ LegalOpcode 0x07FFFFFFFFFFFFFF#64 := by
    unfold LegalOpcode
    decide
  exact ⟨decode_of_encode_eq (by decide), decode_of_encode_eq (by decide), decode_of_encode_eq (by decide),
    decode_of_encode_eq (by decide), decode_of_encode_eq (by decide), decode_of_encode_eq (by decide),
    decode_of_reservedFieldSet hlen, decode_of_not_legalOpcode hopcode⟩

end Sys2Proof
